-- ==== Sys2Proof/Word.lean ====
section
/-! DEFINITION. The words of the SSD1306 command encoder block: bytes, bus addresses, page and column numbers, frames. -/

namespace Sys2Proof

/-- An unsigned 8-bit value, bit 0 the least significant (00_scope.md section 4). -/
abbrev Byte := BitVec 8

/-- A 7-bit controller bus address (R8). -/
abbrev BusAddr := BitVec 7

/-- A page index, held in the three low bits of the page-address command (R4, R60). -/
abbrev Page := BitVec 3

/-- A controller column, 0..127 (R45). -/
abbrev Column := BitVec 7

/-- The byte string of one transport write call (R2). -/
abbrev Frame := List Byte

/-- `zeros n` is a string of `n` bytes of 0x00 (00_scope.md section 4); `zeros S.W` is the Blank Page Buffer (R15). -/
def zeros (n : Nat) : List Byte := List.replicate n 0#8

end Sys2Proof
end

