-- ==== Sys2Proof/Config.lean ====
section
/-! DEFINITION. What an implementation fixes (00_scope.md section 3) and the free values: parameters as plain data, opaque constants with no body. -/

namespace Sys2Proof

/-- `HIGH_CODE_POLICY`: what the text pipeline does with a text byte of 0x80 or above (R83, D14). -/
inductive HighCodePolicy where
  | reject
  | blank
  deriving DecidableEq, Repr

/-- Which `QR_GEOMETRY` the block has (R98): the spec's default, or the platform's own function. -/
inductive QrGeometry where
  /-- The default of R98: a payload of `W * (H div 8)` bytes is a full-screen bitmap. -/
  | fullScreen
  /-- Any other admissible geometry: the uninterpreted `Config.qrGeometry`. -/
  | platform
  deriving DecidableEq, Repr

/-- `INIT_TUNING`, a record of eight bytes (R86). -/
structure InitTuning where
  clockDiv   : Byte
  chargePump : Byte
  segRemap   : Byte
  comScan    : Byte
  comPins32  : Byte
  comPins64  : Byte
  precharge  : Byte
  vcomh      : Byte
  deriving DecidableEq, Repr

/-- The default column of R86. -/
def InitTuning.standard : InitTuning :=
  { clockDiv := 0x80, chargePump := 0x14, segRemap := 0xA1, comScan := 0xC8,
    comPins32 := 0x02, comPins64 := 0x12, precharge := 0xF1, vcomh := 0x40 }

/-- The admissible column of R86. -/
def InitTuning.admissible (t : InitTuning) : Bool :=
  t.chargePump == 0x14 && (t.segRemap == 0xA0 || t.segRemap == 0xA1)
    && (t.comScan == 0xC0 || t.comScan == 0xC8)

namespace Config

/-- The bytes of `DEFAULT_FONT` that the spec leaves free: entries 33..127 (R80, log 5). -/
opaque fontByte : Nat → Byte

/-- `N_CALLERS - 1`: the number of caller ports is open, at least 1 (00_scope.md section 3, log 6). -/
opaque callersBeyondFirst : Nat

/-- The platform's `QR_GEOMETRY`: a function of the payload, W and H only (R98, log 7). -/
opaque qrGeometry : List Byte → Nat → Nat → Option (Int × Int)

/-- A stream of free bytes: what the controller holds after a command cut off before its parameter (R140, log 14). -/
opaque freeByte : Nat → Byte

/-- `DEFAULT_FONT` (R80): 1024 bytes, entries 0..32 all zero, every other byte free. -/
def defaultFont : List Byte := zeros 264 ++ (List.range 760).map fun i => fontByte (264 + i)

/-- `N_CALLERS`, at least 1. -/
def nCallers : Nat := callersBeyondFirst + 1

/-- `ADDR_DEFAULT` (R8, R111). -/
def addrDefault : BusAddr := 0x3C

end Config

/-- The parameters fixed for the lifetime of the block (R3), and the bus address of the one panel the model watches (R50).
They stand in State as plain data that no step changes, so that a claim over every state is a claim over every parameter. -/
structure Params where
  highCode  : HighCodePolicy
  tuning    : InitTuning
  qr        : QrGeometry
  nCallers  : Nat
  panelAddr : BusAddr
  deriving DecidableEq, Repr

/-- The defaults of 00_scope.md section 3; the observer's address is 0x3C unless the model says otherwise (R50). -/
def Params.standard : Params :=
  { highCode := .reject, tuning := .standard, qr := .fullScreen,
    nCallers := Config.nCallers, panelAddr := Config.addrDefault }

end Sys2Proof
end

