-- ==== Sys2Proof/Syntax.lean ====
section
/-! DEFINITION. The instruction set: one constructor for each row of spec/opcode_table.json, in the table's order, and the request as a caller presents it. -/

namespace Sys2Proof

/-- The backend mode (R12): `Software = 0`, `Accelerated = 1`. -/
inductive Mode where
  | software
  | accelerated
  deriving DecidableEq, Repr

/-- The 32 rows of the opcode table. Request operands are mathematical integers and byte strings (R64);
the operands of a controller command are the bits its row leaves free and its parameter byte (R59). -/
inductive Instr where
  /-- OPEN, opcode 0x01 (R64, R111). -/
  | openSession (addr : Option Int) (width height : Int) (mode : Mode) (busPresent : Bool) (font : Option (List Byte))
  /-- CLOSE, opcode 0x02 (R112). -/
  | closeSession
  /-- CLEAR, opcode 0x03 (R93). -/
  | clear
  /-- SET_TEXT, opcode 0x04 (R94). -/
  | setText (text : List Byte)
  /-- SET_BITMAP, opcode 0x05 (R96). -/
  | setBitmap (bytes : List Byte) (width height : Int)
  /-- SET_QRCODE, opcode 0x06 (R97). -/
  | setQrcode (bytes : List Byte)
  /-- SET_CONTRAST, opcode 0x07 (R99). -/
  | setContrast (value : Int)
  /-- SET_INVERSION, opcode 0x08 (R100). -/
  | setInversion (invert : Bool)
  /-- The reserved request opcode 0x00 (R65, R74). -/
  | reserved00
  /-- A reserved request opcode 0x09..0xFF (R65, R74). -/
  | reserved09FF (op : Byte)
  /-- Control byte 0x80 (R53). -/
  | prefixSingleCommand
  /-- Control byte 0x00 (R53). -/
  | prefixCommandStream
  /-- Control byte 0x40 (R53). -/
  | prefixDataStream
  /-- 0xAE (R59). -/
  | displayOff
  /-- 0xD5 v (R59). -/
  | setClockDiv (v : Byte)
  /-- 0xA8 v (R59, R61). -/
  | setMuxRatio (v : Byte)
  /-- 0xD3 v (R59). -/
  | setDisplayOffset (v : Byte)
  /-- `0x40 | line` (R59). -/
  | setStartLine (line : BitVec 6)
  /-- 0x8D v (R59). -/
  | chargePump (v : Byte)
  /-- 0xA0 or 0xA1 (R59): bit 0 is `remap`. -/
  | segRemap (remap : Bool)
  /-- 0xC0 or 0xC8 (R59): bit 3 is `dir`. -/
  | comScanDir (dir : Bool)
  /-- 0xDA v (R59). -/
  | setComPins (v : Byte)
  /-- 0x81 v (R59, R62). -/
  | setContrastCmd (v : Byte)
  /-- 0xD9 v (R59). -/
  | setPrecharge (v : Byte)
  /-- 0xDB v (R59). -/
  | setVcomh (v : Byte)
  /-- 0xA6 (R59). -/
  | normalDisplay
  /-- 0xA7 (R59). -/
  | invertDisplay
  /-- 0x20 m (R59). -/
  | setMemMode (m : Byte)
  /-- 0xAF (R59). -/
  | displayOn
  /-- `0x00 | n`, n in 0..15 (R59, R63). -/
  | setColLo (n : BitVec 4)
  /-- `0x10 | n`, n in 0..7 (R59, R63). -/
  | setColHi (n : BitVec 3)
  /-- `0xB0 | n`, n in 0..7 (R60). -/
  | setPage (n : Page)
  deriving DecidableEq, Repr

/-- The three byte spaces of the table: one byte value has a meaning of its own in each
(0x00 is a reserved opcode, the command-stream control byte, and SET_COL_LO 0). -/
inductive Port where
  /-- The request port: callers present requests, the engine accepts them (R64). -/
  | request
  /-- A control-byte position of a frame, at the controller (R47, R53). -/
  | control
  /-- A command position of a frame, at the controller (R47, R59). -/
  | command
  deriving DecidableEq, Repr

/-- The space an instruction's row belongs to (the table's "format"). -/
def Instr.port : Instr → Port
  | .openSession .. | .closeSession | .clear | .setText _ | .setBitmap .. | .setQrcode _
  | .setContrast _ | .setInversion _ | .reserved00 | .reserved09FF _ => .request
  | .prefixSingleCommand | .prefixCommandStream | .prefixDataStream => .control
  | .displayOff | .setClockDiv _ | .setMuxRatio _ | .setDisplayOffset _ | .setStartLine _
  | .chargePump _ | .segRemap _ | .comScanDir _ | .setComPins _ | .setContrastCmd _
  | .setPrecharge _ | .setVcomh _ | .normalDisplay | .invertDisplay | .setMemMode _
  | .displayOn | .setColLo _ | .setColHi _ | .setPage _ => .command

/-- A request as a caller presents it: the byte-serial message of R66, or the record of R64. -/
inductive Request where
  | serial (msg : List Byte)
  | record (i : Instr)
  deriving DecidableEq, Repr

/-- The controller commands that the reference observer knows and that are no row of the opcode table,
because the block never emits them (R48, R75). -/
inductive ExtraCommand where
  /-- 0x21 a b. -/
  | columnRange (a b : Byte)
  /-- 0x22 a b. -/
  | pageRange (a b : Byte)
  /-- 0xA4 or 0xA5. -/
  | entireDisplay (op : Byte)
  deriving DecidableEq, Repr

end Sys2Proof
end

