-- ==== Sys2Proof/WellFormed.lean ====
section
/-! DEFINITION. When an instruction has words: every operand fits the field its layout gives it (R65 to R73). -/

namespace Sys2Proof

/-- `v` fits an unsigned field of `n` bits. -/
def fitsUnsigned (n : Nat) (v : Int) : Bool := decide (0 ≤ v) && decide (v < 2 ^ n)

/-- `v` fits a two's complement field of `n + 1` bits. -/
def fitsSigned (n : Nat) (v : Int) : Bool := decide (-(2 ^ n) ≤ v) && decide (v < 2 ^ n)

/-- The instruction has an encoding. In record form a request's integers are unbounded (R64), so a request
record need not be well-formed; the controller's instructions always are, since their fields are exact. -/
def Instr.wf : Instr → Bool
  | .openSession addr width height _ _ font =>
    (addr.all fun a => fitsUnsigned 8 a) && fitsUnsigned 8 width && fitsUnsigned 8 height
      && (font.all fun f => decide (f.length < 2 ^ 16))
  | .setText text => decide (text.length < 2 ^ 32)
  | .setBitmap bytes width height =>
    fitsUnsigned 16 width && fitsUnsigned 16 height && decide (bytes.length < 2 ^ 32)
  | .setQrcode bytes => decide (bytes.length < 2 ^ 32)
  | .setContrast value => fitsSigned 31 value
  | .reserved09FF op => decide (9 ≤ op.toNat)
  | .closeSession | .clear | .setInversion _ | .reserved00
  | .prefixSingleCommand | .prefixCommandStream | .prefixDataStream
  | .displayOff | .setClockDiv _ | .setMuxRatio _ | .setDisplayOffset _ | .setStartLine _
  | .chargePump _ | .segRemap _ | .comScanDir _ | .setComPins _ | .setContrastCmd _
  | .setPrecharge _ | .setVcomh _ | .normalDisplay | .invertDisplay | .setMemMode _
  | .displayOn | .setColLo _ | .setColHi _ | .setPage _ => true

end Sys2Proof
end

