-- ==== Sys2Proof/Decode.lean ====
section
/-! DEFINITION. Decoding, total on any bytes and rejecting by name, for the three byte spaces of the table; and the encoder. -/

namespace Sys2Proof

/-- Why bytes are no instruction. -/
inductive Reject where
  /-- A message of no bytes: it has no opcode and no layout of R66. That it is malformed is the model's choice (log 30). -/
  | emptyMessage
  /-- The message's length differs from the length its layout gives (R66). -/
  | wrongLength
  /-- A reserved bit 7..4 of OPEN's flag byte is set (R66, R67). -/
  | reservedFlag
  /-- OPEN says the address is absent and gives one (R67). -/
  | addressNotZero
  /-- A boolean byte is neither 0x00 nor 0x01 (R66, R73). -/
  | badBoolean
  /-- A record whose operation is none of the request port's (R120). -/
  | notARequest
  /-- A control byte that is no row of the table (R53). -/
  | unknownControl (b : Byte)
  /-- A byte in a command position that the observer does not know (R47). -/
  | unknownCommand (b : Byte)
  /-- A command whose parameter bytes are not there (R47, R140). -/
  | missingParameter (b : Byte)
  deriving DecidableEq, Repr

/-- What a whole message, a record or a control byte decodes to. -/
inductive Decoded where
  | ok (i : Instr)
  | reject (r : Reject)
  deriving DecidableEq, Repr

/-- What the head of a command string decodes to, with the bytes that follow it. -/
inductive CommandDecoded where
  | instr (i : Instr) (rest : List Byte)
  | extra (x : ExtraCommand) (rest : List Byte)
  | reject (r : Reject)
  deriving DecidableEq, Repr

/-! ## Integer fields (R66) -/

/-- The `n` bytes of `v`, least significant byte first. -/
def le : Nat → Nat → List Byte
  | 0, _ => []
  | n + 1, v => BitVec.ofNat 8 v :: le n (v / 256)

/-- The unsigned value of bytes given least significant byte first. -/
def ofLe : List Byte → Nat
  | [] => 0
  | b :: bs => b.toNat + 256 * ofLe bs

/-- `sext_32` (R72). -/
def signed32 (n : Nat) : Int := if n < 2 ^ 31 then (n : Int) else (n : Int) - 2 ^ 32

/-- The 32-bit two's complement of `v` (R72). -/
def unsigned32 (v : Int) : Nat := (v % 2 ^ 32).toNat

/-! ## Request messages (R67 to R73) -/

/-- The flag byte of OPEN (R67). -/
def openFlags (mode : Mode) (busPresent fontPresent addrAbsent : Bool) : Byte :=
  BitVec.ofNat 8
    ((if mode = .accelerated then 1 else 0) + (if busPresent then 2 else 0)
      + (if fontPresent then 4 else 0) + (if addrAbsent then 8 else 0))

/-- OPEN after its opcode byte (R67). -/
def decodeOpen : List Byte → Decoded
  | a :: wd :: hd :: fl :: rest =>
    let addr := if fl.getLsbD 3 then none else some (a.toNat : Int)
    let mode := if fl.getLsbD 0 then Mode.accelerated else .software
    if fl &&& 0xF0 ≠ 0 then .reject .reservedFlag
    else if fl.getLsbD 3 ∧ a ≠ 0 then .reject .addressNotZero
    else if fl.getLsbD 2 then
      match rest with
      | l0 :: l1 :: font =>
        if font.length = ofLe [l0, l1] then
          .ok (.openSession addr wd.toNat hd.toNat mode (fl.getLsbD 1) (some font))
        else .reject .wrongLength
      | _ => .reject .wrongLength
    else if rest = [] then .ok (.openSession addr wd.toNat hd.toNat mode (fl.getLsbD 1) none)
    else .reject .wrongLength
  | _ => .reject .wrongLength

/-- A message that is its opcode byte and nothing more (R68). -/
def decodeBare (i : Instr) : List Byte → Decoded
  | [] => .ok i
  | _ :: _ => .reject .wrongLength

/-- A `u32` length and that many bytes (R69, R71). -/
def decodeString (k : List Byte → Instr) : List Byte → Decoded
  | l0 :: l1 :: l2 :: l3 :: bytes =>
    if bytes.length = ofLe [l0, l1, l2, l3] then .ok (k bytes) else .reject .wrongLength
  | _ => .reject .wrongLength

/-- SET_BITMAP after its opcode byte (R70). -/
def decodeBitmap : List Byte → Decoded
  | w0 :: w1 :: h0 :: h1 :: rest =>
    decodeString (fun bytes => .setBitmap bytes (ofLe [w0, w1]) (ofLe [h0, h1])) rest
  | _ => .reject .wrongLength

/-- SET_CONTRAST after its opcode byte (R72). -/
def decodeContrast : List Byte → Decoded
  | [v0, v1, v2, v3] => .ok (.setContrast (signed32 (ofLe [v0, v1, v2, v3])))
  | _ => .reject .wrongLength

/-- SET_INVERSION after its opcode byte (R73). -/
def decodeInversion : List Byte → Decoded
  | [b] => if b = 0 then .ok (.setInversion false) else if b = 1 then .ok (.setInversion true)
      else .reject .badBoolean
  | _ => .reject .wrongLength

/-- A serial message on the request port (R65 to R74). That a reserved opcode is reserved at every
length of the message is the model's reading (log 20), and that a message of no bytes is malformed is its choice (log 30). -/
def decodeMessage : List Byte → Decoded
  | [] => .reject .emptyMessage
  | op :: rest =>
    if op = 0x00 then .ok .reserved00
    else if op = 0x01 then decodeOpen rest
    else if op = 0x02 then decodeBare .closeSession rest
    else if op = 0x03 then decodeBare .clear rest
    else if op = 0x04 then decodeString .setText rest
    else if op = 0x05 then decodeBitmap rest
    else if op = 0x06 then decodeString .setQrcode rest
    else if op = 0x07 then decodeContrast rest
    else if op = 0x08 then decodeInversion rest
    else .ok (.reserved09FF op)

/-- `Decode(req)` (R104), in both forms of the request. Two kinds of record that the types of the model admit are no record of
R64 or R65, and what is answered to them is the model's choice (log 21): one of a control byte or a controller command does
not decode, and `reserved09FF op` with an `op` of 0x00 to 0x08 runs as the reserved opcode that its constructor names. -/
def decodeRequest : Request → Decoded
  | .serial msg => decodeMessage msg
  | .record i => if i.port = .request then .ok i else .reject .notARequest

/-! ## Frame bytes at the controller (R47, R53, R59) -/

/-- A control byte that is a row of the table (R53). -/
def decodeControl (b : Byte) : Decoded :=
  if b = 0x80 then .ok .prefixSingleCommand
  else if b = 0x00 then .ok .prefixCommandStream
  else if b = 0x40 then .ok .prefixDataStream
  else .reject (.unknownControl b)

/-- A command with one parameter byte (R47). -/
def oneParameter (b : Byte) (k : Byte → Instr) : List Byte → CommandDecoded
  | v :: rest => .instr (k v) rest
  | [] => .reject (.missingParameter b)

/-- A command with two parameter bytes (R47). -/
def twoParameters (b : Byte) (k : Byte → Byte → ExtraCommand) : List Byte → CommandDecoded
  | p :: q :: rest => .extra (k p q) rest
  | _ => .reject (.missingParameter b)

/-- The command that byte `b` begins, with the bytes after it (R47, R48, R59). -/
def decodeCommand (b : Byte) (bs : List Byte) : CommandDecoded :=
  if b &&& 0xF0 = 0x00 then .instr (.setColLo (b.extractLsb' 0 4)) bs
  else if b &&& 0xF8 = 0x10 then .instr (.setColHi (b.extractLsb' 0 3)) bs
  else if b = 0x20 then oneParameter b .setMemMode bs
  else if b = 0x21 then twoParameters b .columnRange bs
  else if b = 0x22 then twoParameters b .pageRange bs
  else if b &&& 0xC0 = 0x40 then .instr (.setStartLine (b.extractLsb' 0 6)) bs
  else if b = 0x81 then oneParameter b .setContrastCmd bs
  else if b = 0x8D then oneParameter b .chargePump bs
  else if b &&& 0xFE = 0xA0 then .instr (.segRemap (b.getLsbD 0)) bs
  else if b &&& 0xFE = 0xA4 then .extra (.entireDisplay b) bs
  else if b = 0xA6 then .instr .normalDisplay bs
  else if b = 0xA7 then .instr .invertDisplay bs
  else if b = 0xA8 then oneParameter b .setMuxRatio bs
  else if b = 0xAE then .instr .displayOff bs
  else if b = 0xAF then .instr .displayOn bs
  else if b &&& 0xF8 = 0xB0 then .instr (.setPage (b.extractLsb' 0 3)) bs
  else if b &&& 0xF7 = 0xC0 then .instr (.comScanDir (b.getLsbD 3)) bs
  else if b = 0xD3 then oneParameter b .setDisplayOffset bs
  else if b = 0xD5 then oneParameter b .setClockDiv bs
  else if b = 0xD9 then oneParameter b .setPrecharge bs
  else if b = 0xDA then oneParameter b .setComPins bs
  else if b = 0xDB then oneParameter b .setVcomh bs
  else .reject (.unknownCommand b)

/-! ## The encoder -/

/-- The bytes of an instruction: a request's serial message (R67 to R73), a control byte (R53), a command and its parameter (R59). -/
def encode : Instr → List Byte
  | .openSession addr width height mode bus font =>
    [0x01, (BitVec.ofInt 8 (addr.getD 0)), BitVec.ofInt 8 width, BitVec.ofInt 8 height,
        openFlags mode bus font.isSome addr.isNone]
      ++ (match font with
          | none => []
          | some f => le 2 f.length ++ f)
  | .closeSession => [0x02]
  | .clear => [0x03]
  | .setText text => 0x04 :: (le 4 text.length ++ text)
  | .setBitmap bytes width height =>
    0x05 :: (le 2 width.toNat ++ (le 2 height.toNat ++ (le 4 bytes.length ++ bytes)))
  | .setQrcode bytes => 0x06 :: (le 4 bytes.length ++ bytes)
  | .setContrast value => 0x07 :: le 4 (unsigned32 value)
  | .setInversion invert => [0x08, if invert then 0x01 else 0x00]
  | .reserved00 => [0x00]
  | .reserved09FF op => [op]
  | .prefixSingleCommand => [0x80]
  | .prefixCommandStream => [0x00]
  | .prefixDataStream => [0x40]
  | .displayOff => [0xAE]
  | .setClockDiv v => [0xD5, v]
  | .setMuxRatio v => [0xA8, v]
  | .setDisplayOffset v => [0xD3, v]
  | .setStartLine line => [0x40 ||| line.zeroExtend 8]
  | .chargePump v => [0x8D, v]
  | .segRemap remap => [if remap then 0xA1 else 0xA0]
  | .comScanDir dir => [if dir then 0xC8 else 0xC0]
  | .setComPins v => [0xDA, v]
  | .setContrastCmd v => [0x81, v]
  | .setPrecharge v => [0xD9, v]
  | .setVcomh v => [0xDB, v]
  | .normalDisplay => [0xA6]
  | .invertDisplay => [0xA7]
  | .setMemMode m => [0x20, m]
  | .displayOn => [0xAF]
  | .setColLo n => [0x00 ||| n.zeroExtend 8]
  | .setColHi n => [0x10 ||| n.zeroExtend 8]
  | .setPage n => [0xB0 ||| n.zeroExtend 8]

/-! ## The table's words -/

/-- The space in which a bare word of the opcode table is read (log 17): 0x00..0x08 are request opcodes,
0x80 and 0x40 control bytes, a byte that begins a controller command row that command, and every other byte
a reserved request opcode. -/
def tablePort (b : Byte) : Port :=
  if b.toNat ≤ 8 then .request
  else if b = 0x80 ∨ b = 0x40 then .control
  else match decodeCommand b [0x00] with
    | .instr _ _ => .command
    | _ => .request

/-- The least number of bytes the layout that byte `b` begins can have (R66 to R73, R47). -/
def leastLength (b : Byte) : Nat :=
  match tablePort b with
  | .request =>
    if b = 0x01 ∨ b = 0x04 ∨ b = 0x06 ∨ b = 0x07 then 5
    else if b = 0x05 then 9
    else if b = 0x08 then 2
    else 1
  | .control => 1
  | .command =>
    match decodeCommand b [] with
    | .reject _ => 2
    | _ => 1

/-- The bytes of a table word: its `nbits / 8` bytes, then the operand bytes that the table leaves out, all zero. -/
def tableBytes (nbits w : Nat) : List Byte :=
  match le (nbits / 8) w with
  | [] => []
  | b :: bs => (b :: bs) ++ zeros (leastLength b - (bs.length + 1))

/-- The instruction the decoder reads from a word of the table, in the space `tablePort` gives it. -/
def decodeTableWord (nbits w : Nat) : Option Instr :=
  match tableBytes nbits w with
  | [] => none
  | b :: bs =>
    match tablePort b with
    | .request =>
      match decodeMessage (b :: bs) with
      | .ok i => some i
      | .reject _ => none
    | .control =>
      match decodeControl b with
      | .ok i => some i
      | .reject _ => none
    | .command =>
      match decodeCommand b bs with
      | .instr i _ => some i
      | _ => none

end Sys2Proof
end

