-- ==== Sys2Proof/Machine/State.lean ====
section
/-! DEFINITION. The state of the machine as plain data: the block, the panel's controller as the reference observer sees it, and the inputs and outputs at the block's ports. -/

namespace Sys2Proof.Machine

/-! ## The block's registers -/

/-- `S.sess` (R7). -/
inductive Sess where
  | idle
  | opened
  | closed
  deriving DecidableEq, Repr

/-- `S.bus` (R13). -/
inductive BusHandle where
  | released
  | held
  deriving DecidableEq, Repr

/-- The session registers (R7 to R14). `S.P` is no latch: it is `Session.pages`. -/
structure Session where
  sess : Sess
  addr : BusAddr
  W    : Nat
  H    : Nat
  mode : Mode
  bus  : BusHandle
  font : List Byte
  deriving DecidableEq, Repr

/-- The kinds of error (R115). -/
inductive ErrKind where
  | configuration
  | transport
  | outOfRange
  | closed
  | unsupported
  deriving DecidableEq, Repr

/-- The field of the open configuration that a failing check names (R111, R116). -/
inductive ConfigField where
  | addr
  | width
  | height
  | bus
  | font
  deriving DecidableEq, Repr

/-- `TransportReason`: opaque to the block, passed through unchanged (R107, R117, log 8). -/
structure TransportReason where
  token : Nat
  deriving DecidableEq, Repr

/-- The detail an error carries (R114). -/
inductive Info where
  /-- The state gate's errors carry none (R105). -/
  | nothing
  | field (f : ConfigField)
  /-- The index of the first text byte that is 0x80 or above (R94). -/
  | textIndex (i : Nat)
  /-- A code outside the glyph table (R81, R83). -/
  | code (c : Byte)
  | bitmap (w h : Int) (len : Nat)
  | payload (len : Nat)
  | value (v : Int)
  | opcode (op : Byte)
  | malformed (r : Reject)
  | reason (r : TransportReason)
  deriving DecidableEq, Repr

/-- A response (R114). -/
inductive Response where
  | ok
  | err (kind : ErrKind) (info : Info)
  deriving DecidableEq, Repr

/-- The session-register updates an operation applies on success (R19, R106): OPEN and CLOSE have some. -/
inductive Commit where
  | keep
  | opened (addr : BusAddr) (W H : Nat) (mode : Mode) (font : List Byte)
  | closed
  deriving DecidableEq, Repr

/-- The record of `S.inflight` (R19). -/
structure Operation where
  caller : Nat
  req    : Request
  frames : List Frame
  addr   : BusAddr
  commit : Commit
  deriving DecidableEq, Repr

/-- What a planning function returns (R106). -/
inductive Planned where
  | plan (frames : List Frame) (addr : BusAddr) (commit : Commit)
  | error (kind : ErrKind) (info : Info)
  deriving DecidableEq, Repr

/-- The response slot `S.resp[c]` (R18). -/
inductive Slot where
  | none
  | waiting
  deriving DecidableEq, Repr

/-! ## The controller, as the reference observer holds it (R45) -/

/-- `amode` (R45): Horizontal 0b00, Vertical 0b01, Page 0b10. -/
inductive AddrMode where
  | horizontal
  | vertical
  | page
  deriving DecidableEq, Repr

/-- Where the observer's parse of a frame stands (R47). -/
inductive RxPos where
  /-- The next byte is a control byte. -/
  | control
  /-- After Co = 1, D/C# = 0: one command byte, then a control byte. -/
  | singleCommand
  /-- After Co = 1, D/C# = 1: one data byte, then a control byte. -/
  | singleData
  /-- After Co = 0, D/C# = 0: the rest of the frame is commands. -/
  | commandStream
  /-- After Co = 0, D/C# = 1: the rest of the frame is data. -/
  | dataStream
  deriving DecidableEq, Repr

/-- The reference observer's state (R45), and the frame it is taking in (R47). -/
structure Controller where
  /-- `RAM[p][x]` is the byte at address `128 p + x`; a byte that is not listed may have any value (R46). -/
  ram        : List Host.Cell
  colPtr     : Column
  pagePtr    : Page
  colStart   : Column
  colEnd     : Column
  pageStart  : Page
  pageEnd    : Page
  amode      : AddrMode
  contrast   : Byte
  inverted   : Bool
  on         : Bool
  /-- The shadow bytes of the settings that move nothing (R45, R48). -/
  muxRatio   : Byte
  offset     : Byte
  clockDiv   : Byte
  chargePump : Byte
  comPins    : Byte
  precharge  : Byte
  vcomh      : Byte
  segRemap   : Byte
  comScan    : Byte
  startLine  : Byte
  entire     : Byte
  /-- The bytes of a delivered frame that the observer has not parsed yet, and where its parse stands. -/
  rx         : List Byte
  rxPos      : RxPos
  deriving DecidableEq, Repr

/-! ## Inputs and outputs -/

/-- The transport's answer to one `Emit` (R107). A failed call delivered some prefix of its frame (R50):
`delivered` is the length of that prefix, capped by the frame's own length. -/
inductive Answer where
  | ok
  | fail (reason : TransportReason) (delivered : Nat)
  deriving DecidableEq, Repr

/-- What the outside does next. The list of turns is the interleaving of the agents, which the spec leaves free (R39). -/
inductive Turn where
  /-- The block and the panel take one step of their own. -/
  | run
  /-- Caller `c` submits a request (R102); a caller whose slot is waiting holds until it is answered (R18). -/
  | submit (c : Nat) (req : Request)
  /-- The block is reset (R134). If a transport call was out, `cut` is how much of its frame arrived (93 I23). -/
  | blockReset (cut : Option Nat)
  /-- The platform resets the panel (R46, R136). -/
  | panelReset
  deriving DecidableEq, Repr

/-- What the outside sees (R2): the transport writes and the responses, in order. -/
inductive Event where
  /-- One transport write call for an operation of caller `c`, and its answer. It is recorded when it is answered (log 31). -/
  | write (c : Nat) (addr : BusAddr) (frame : Frame) (answer : Answer)
  /-- A transport write call that a block reset abandoned before its answer. -/
  | abandoned (c : Nat) (addr : BusAddr) (frame : Frame)
  | respond (c : Nat) (r : Response)
  | blockReset
  deriving DecidableEq, Repr

/-! ## The whole machine -/

structure State where
  /-- The session registers. -/
  reg      : Session
  /-- The text page counter (R20). -/
  textPage : Page
  /-- The arrival queue (R17), its head first. -/
  queue    : List (Nat × Request)
  /-- The callers whose response slot is waiting (R18), strictly rising; `State.resp` reads one slot. -/
  waiting  : List Nat
  /-- The operation in flight (R19). -/
  inflight : Option Operation
  /-- The frame index (R6). -/
  seq      : Nat
  /-- The parameters (R3). -/
  par      : Params
  /-- The panel at `par.panelAddr`. -/
  ctl      : Controller
  /-- The model's own: what the outside will do, in order. -/
  turns    : List Turn
  /-- The model's own: the transport's coming answers; with none listed, the transport has not answered. -/
  answers  : List Answer
  /-- The model's own: what the outside has seen, oldest first. -/
  trace    : List Event
  /-- The model's own: how many free bytes have been drawn. -/
  draws    : Nat
  deriving DecidableEq, Repr

/-- The machine stops with a fault. -/
inductive Fault where
  /-- Raised by step when the frame index is past the end of the frames in flight, which R6 rules out. Safe: the machine stops. -/
  | frameIndexPastEnd
  deriving DecidableEq, Repr

/-- The model gives no next state. -/
inductive Refusal where
  /-- Raised by exec's arm of an instruction that has no meaning yet. Safe. -/
  | notModelled (mnemonic : String)
  /-- Raised by a request's meaning when there is no request to accept: R103 lets an accept step happen only with no
  operation in flight and a queue that is not empty, and step calls a request's meaning only then. Safe. -/
  | acceptNotEnabled
  /-- Raised by step at a submit turn of a caller the block does not have (R1). Safe. -/
  | noSuchCaller (c : Nat)
  /-- Raised by step when the observer refuses a frame: a byte it does not know, or a parameterless position with a command
  that needs a parameter (R47). The block never emits such a frame (R75). Safe. -/
  | observerRefuses (r : Reject)
  /-- Raised by SET_MEM_MODE with addressing mode 0b11: the observer refuses it (R48). Safe. -/
  | observerModeUndefined
  deriving DecidableEq, Repr

/-! ## Reset -/

/-- The session registers after reset (R134). R7 and R13 give `sess` and `bus` (93 I15 lists `bus` among the
unspecified: log 32); the others are unspecified (log 1). -/
def Session.reset : Session :=
  { sess := .idle, addr := 0, W := 0, H := 0, mode := .software, bus := .released, font := zeros 1024 }

/-- The observer's state after a controller reset (R46); the shadow bytes are not given (log 2). -/
def Controller.afterReset : Controller :=
  { ram := [], colPtr := 0, pagePtr := 0, colStart := 0, colEnd := 127, pageStart := 0, pageEnd := 7,
    amode := .page, contrast := 0x7F, inverted := false, on := false,
    muxRatio := 0, offset := 0, clockDiv := 0, chargePump := 0, comPins := 0, precharge := 0, vcomh := 0,
    segRemap := 0, comScan := 0, startLine := 0, entire := 0,
    rx := [], rxPos := .control }

/-- The machine right after reset (R134): the block in its reset state, the panel reset too (R46, R137), nothing outside has happened. -/
def State.reset : State :=
  { reg := .reset, textPage := 0, queue := [], waiting := [], inflight := none, seq := 0,
    par := .standard, ctl := .afterReset, turns := [], answers := [], trace := [], draws := 0 }

end Sys2Proof.Machine
end

