-- ==== Sys2Proof/Machine/Flags.lean ====
section
/-! DEFINITION. The block has no condition codes (R16). Its status elements are `S.sess`, `S.mode` and `S.bus`, and an outcome is a response code; here are their bits. -/

namespace Sys2Proof.Machine

/-- The two bits of `S.sess` (R7). -/
def Sess.bits : Sess → BitVec 2
  | .idle => 0b00
  | .opened => 0b01
  | .closed => 0b10

/-- `S.sess` read from its two bits; 0b11 is never written, and a reader refuses it (93 I19). -/
def Sess.ofBits (b : BitVec 2) : Option Sess :=
  if b = 0b00 then some .idle
  else if b = 0b01 then some .opened
  else if b = 0b10 then some .closed
  else none

/-- The bit of `S.mode` (R12). -/
def modeBit : Mode → BitVec 1
  | .software => 0
  | .accelerated => 1

/-- The bit of `S.bus` (R13). The spec says one bit and not which value is which (log 3). -/
def BusHandle.bit : BusHandle → BitVec 1
  | .released => 0
  | .held => 1

/-- The code of an error kind (R115). -/
def ErrKind.code : ErrKind → BitVec 3
  | .configuration => 1
  | .transport => 2
  | .outOfRange => 3
  | .closed => 4
  | .unsupported => 5

/-- The 3-bit response code (R115). -/
def Response.code : Response → BitVec 3
  | .ok => 0
  | .err k _ => k.code

/-- `amode` read from the low bits of SET_MEM_MODE's parameter (R45, R48). -/
def AddrMode.ofBits (b : BitVec 2) : Option AddrMode :=
  if b = 0b00 then some .horizontal
  else if b = 0b01 then some .vertical
  else if b = 0b10 then some .page
  else none

end Sys2Proof.Machine
end

