-- ==== Sys2Proof/Machine/Operands.lean ====
section
/-! DEFINITION. Operands: reads of the OPND and FONT spaces, the text page counter, and the operand bytes of the emitted commands. -/

namespace Sys2Proof.Machine

/-- `MemRead(space, a, n)` of a byte string: the bytes at indices `a .. a+n-1` (R24, R25). -/
def memRead (bytes : List Byte) (a n : Nat) : List Byte := (bytes.drop a).take n

/-- `S.P` (R11). -/
def Session.pages (r : Session) : Nat := r.H / 8

/-- The response slot of caller `c` (R18). -/
def State.resp (s : State) (c : Nat) : Slot := if c ∈ s.waiting then .waiting else .none

/-- The newline byte (R94). -/
def newline : Byte := 0x0A

/-- `(page + 1) mod P` (R20). -/
def nextPage (P : Nat) (page : Page) : Page := BitVec.ofNat 3 ((page.toNat + 1) % P)

/-- The text page counter after the bytes of a text (R20, R94). -/
def lastPage (P : Nat) (text : List Byte) : Page :=
  text.foldl (fun page b => if b = newline then nextPage P page else page) 0

/-- The index of the first text byte that is 0x80 or above (R94). -/
def firstHigh (text : List Byte) : Option Nat := text.findIdx? fun b => decide (0x80 ≤ b.toNat)

/-- The page-address command `0xB0 | N` (R60). -/
def pageCommand (N : Page) : Byte := 0xB0 ||| N.zeroExtend 8

/-- The multiplexer-ratio parameter `H - 1` (R61). -/
def muxParameter (H : Nat) : Byte := BitVec.ofNat 8 (H - 1)

/-- The COM pins byte of a height (R59, R87). -/
def comPinsOf (t : InitTuning) (H : Nat) : Byte := if H = 32 then t.comPins32 else t.comPins64

end Sys2Proof.Machine
end

