-- ==== Sys2Proof/Machine/Ops.lean ====
section
/-! DEFINITION. The named operations that the meanings share: display memory, the state gate, answering with an error (the block's only exception entry, R122), accepting, delivering a frame. -/

namespace Sys2Proof.Machine

/-! ## Display memory (R23, R45): cells strictly rising in address, an unlisted byte unknown (log 4) -/

namespace Memory

/-- The number of display RAM bytes: 8 pages of 128 columns (R45). -/
def size : Nat := 1024

/-- One byte, or nothing where no value is known. -/
def read : List Host.Cell → Nat → Option Byte
  | [], _ => none
  | (k, v) :: m, a => if k = a then some v else read m a

/-- Store one byte, keeping the cells in order. -/
def write : List Host.Cell → Nat → Byte → List Host.Cell
  | [], a, b => [(a, b)]
  | (k, v) :: m, a, b =>
    if a < k then (a, b) :: (k, v) :: m
    else if a = k then (a, b) :: m
    else (k, v) :: write m a b

/-- The canonical form: addresses strictly rising and inside the display RAM. -/
def wf : List Host.Cell → Bool
  | [] => true
  | [(k, _)] => decide (k < size)
  | (k, _) :: (l, w) :: m => decide (k < l) && wf ((l, w) :: m)

end Memory

/-- The address of `RAM[p][x]`. -/
def ramAddr (p : Page) (x : Column) : Nat := 128 * p.toNat + x.toNat

/-! ## The sets of waiting callers (R18) -/

/-- `S.resp[c] <- waiting`. -/
def addCaller (c : Nat) : List Nat → List Nat
  | [] => [c]
  | d :: ds => if c < d then c :: d :: ds else if c = d then d :: ds else d :: addCaller c ds

/-- `S.resp[c] <- none`. -/
def dropCaller (c : Nat) (ds : List Nat) : List Nat := ds.filter fun d => decide (d ≠ c)

/-! ## Answering (R114, R122) -/

/-- `respond(c, r)` and `S.resp[c] <- none`. -/
def respond (c : Nat) (r : Response) (s : State) : State :=
  { s with waiting := dropCaller c s.waiting, trace := s.trace ++ [.respond c r] }

/-- An error ends the operation (R122): the caller is answered, nothing is in flight, no session register changes.
There is no vector, no saved state and no return from it (R123). -/
def answerError (c : Nat) (k : ErrKind) (info : Info) (s : State) : State :=
  respond c (.err k info) { s with inflight := none }

/-- The operation in flight ends: the text page counter does not outlive its request (R20). -/
def endOperation (s : State) : State := { s with inflight := none, textPage := 0 }

/-! ## Accepting (R103) -/

/-- The columns of the gate table (R105). -/
inductive RequestClass where
  | opening
  | closing
  | display
  deriving DecidableEq, Repr

/-- `Gate(S.sess, op)` (R105): nothing when the request is admitted. -/
def gate : Sess → RequestClass → Option ErrKind
  | .idle, .opening => none
  | .idle, .closing => some .closed
  | .idle, .display => some .closed
  | .opened, .opening => some .unsupported
  | .opened, .closing => none
  | .opened, .display => none
  | .closed, _ => some .closed

/-- `S.inflight <- …; S.seq <- 0` (R103). -/
def launch (c : Nat) (req : Request) (frames : List Frame) (addr : BusAddr) (commit : Commit) (page : Page)
    (s : State) : State :=
  { s with
    inflight := some { caller := c, req := req, frames := frames, addr := addr, commit := commit }
    seq := 0
    textPage := page }

/-- The accept step of a decoded request (R103): the state gate, then the plan. `page` is the text page counter that planning leaves. -/
def accept (cls : RequestClass) (planned : Planned) (page : Page) (s : State) : Host.Outcome State Fault Refusal :=
  match s.inflight, s.queue with
  | none, (c, req) :: rest =>
    match gate s.reg.sess cls with
    | some k => .next (answerError c k .nothing { s with queue := rest })
    | none =>
      match planned with
      | .error k info => .next (answerError c k info { s with queue := rest })
      | .plan frames addr commit => .next (launch c req frames addr commit page { s with queue := rest })
  | _, _ => .refused .acceptNotEnabled

/-- The accept step of a request that does not decode, or whose opcode is reserved (R103, R104, R120). -/
def acceptUnsupported (info : Info) (s : State) : Host.Outcome State Fault Refusal :=
  match s.inflight, s.queue with
  | none, (c, _) :: rest => .next (answerError c .unsupported info { s with queue := rest })
  | _, _ => .refused .acceptNotEnabled

/-! ## The controller (R47 to R50) -/

/-- Change the controller and nothing else. -/
def onController (f : Controller → Controller) (s : State) : Host.Outcome State Fault Refusal :=
  .next { s with ctl := f s.ctl }

/-- The position that a control byte leads to: Co is bit 7, D/C# bit 6 (R47). -/
def positionAfter (b : Byte) : RxPos :=
  if b.getLsbD 7 then (if b.getLsbD 6 then .singleData else .singleCommand)
  else if b.getLsbD 6 then .dataStream else .commandStream

/-- `colPtr <- colPtr + 1`, back to `colStart` past `colEnd` (R49). -/
def Controller.nextCol (c : Controller) : Column :=
  if c.colEnd.toNat < c.colPtr.toNat + 1 then c.colStart else c.colPtr + 1

/-- `pagePtr <- pagePtr + 1`, back to `pageStart` past `pageEnd` (R49). -/
def Controller.nextPage (c : Controller) : Page :=
  if c.pageEnd.toNat < c.pagePtr.toNat + 1 then c.pageStart else c.pagePtr + 1

/-- How the pointers advance after a data byte (R49). -/
def Controller.advance (c : Controller) : Controller :=
  match c.amode with
  | .horizontal =>
    if c.colEnd.toNat < c.colPtr.toNat + 1 then { c with colPtr := c.nextCol, pagePtr := c.nextPage }
    else { c with colPtr := c.nextCol }
  | .vertical =>
    if c.pageEnd.toNat < c.pagePtr.toNat + 1 then { c with pagePtr := c.nextPage, colPtr := c.nextCol }
    else { c with pagePtr := c.nextPage }
  | .page => { c with colPtr := c.nextCol }

/-- `Data(b)` (R49). -/
def Controller.data (c : Controller) (b : Byte) : Controller :=
  Controller.advance { c with ram := Memory.write c.ram (ramAddr c.pagePtr c.colPtr) b }

/-- The data bytes of a data stream, in order (R28, R47). -/
def Controller.dataStream (c : Controller) (bs : List Byte) : Controller := bs.foldl Controller.data c

/-- `bytes` of a frame reach the controller: the whole frame, or the part of it that a failed call delivered (R50).
The observer parses every frame from a control byte on (R47), whatever came before it, a cut frame too (log 14). -/
def deliver (bytes : List Byte) (s : State) : State :=
  if bytes = [] then s else { s with ctl := { s.ctl with rx := bytes, rxPos := .control } }

end Sys2Proof.Machine
end

