-- ==== Sys2Proof/Machine/Commands.lean ====
section
/-! DEFINITION. The controller commands (R59) with the reference observer's effects (R48). -/

namespace Sys2Proof.Machine

/-- DISPLAY_OFF: `on <- 0` (R48). -/
def execDisplayOff (s : State) : Host.Outcome State Fault Refusal := onController (fun c => { c with on := false }) s

/-- SET_CLOCK_DIV: a shadow byte (R48). -/
def execSetClockDiv (v : Byte) (s : State) : Host.Outcome State Fault Refusal :=
  onController (fun c => { c with clockDiv := v }) s

/-- SET_MUX_RATIO: a shadow byte (R48). -/
def execSetMuxRatio (v : Byte) (s : State) : Host.Outcome State Fault Refusal :=
  onController (fun c => { c with muxRatio := v }) s

/-- SET_DISPLAY_OFFSET: a shadow byte (R48). -/
def execSetDisplayOffset (v : Byte) (s : State) : Host.Outcome State Fault Refusal :=
  onController (fun c => { c with offset := v }) s

/-- SET_START_LINE: start line `<- b[5:0]` (R48). -/
def execSetStartLine (line : BitVec 6) (s : State) : Host.Outcome State Fault Refusal :=
  onController (fun c => { c with startLine := line.zeroExtend 8 }) s

/-- CHARGE_PUMP: a shadow byte (R48). -/
def execChargePump (v : Byte) (s : State) : Host.Outcome State Fault Refusal :=
  onController (fun c => { c with chargePump := v }) s

/-- SEG_REMAP: the shadow byte is the command byte (R48, log 13). -/
def execSegRemap (remap : Bool) (s : State) : Host.Outcome State Fault Refusal :=
  onController (fun c => { c with segRemap := if remap then 0xA1 else 0xA0 }) s

/-- COM_SCAN_DIR: the shadow byte is the command byte (R48, log 13). -/
def execComScanDir (dir : Bool) (s : State) : Host.Outcome State Fault Refusal :=
  onController (fun c => { c with comScan := if dir then 0xC8 else 0xC0 }) s

/-- SET_COM_PINS: a shadow byte (R48). -/
def execSetComPins (v : Byte) (s : State) : Host.Outcome State Fault Refusal :=
  onController (fun c => { c with comPins := v }) s

/-- SET_CONTRAST_CMD: `contrast <- v` (R48). -/
def execSetContrastCmd (v : Byte) (s : State) : Host.Outcome State Fault Refusal :=
  onController (fun c => { c with contrast := v }) s

/-- SET_PRECHARGE: a shadow byte (R48). -/
def execSetPrecharge (v : Byte) (s : State) : Host.Outcome State Fault Refusal :=
  onController (fun c => { c with precharge := v }) s

/-- SET_VCOMH: a shadow byte (R48). -/
def execSetVcomh (v : Byte) (s : State) : Host.Outcome State Fault Refusal :=
  onController (fun c => { c with vcomh := v }) s

/-- NORMAL_DISPLAY: `inverted <- 0` (R48). -/
def execNormalDisplay (s : State) : Host.Outcome State Fault Refusal :=
  onController (fun c => { c with inverted := false }) s

/-- INVERT_DISPLAY: `inverted <- 1` (R48). -/
def execInvertDisplay (s : State) : Host.Outcome State Fault Refusal :=
  onController (fun c => { c with inverted := true }) s

/-- SET_MEM_MODE: `amode <- m[1:0]`; 0b11 makes the observer refuse (R48). -/
def execSetMemMode (m : Byte) (s : State) : Host.Outcome State Fault Refusal :=
  match AddrMode.ofBits (m.extractLsb' 0 2) with
  | some a => onController (fun c => { c with amode := a }) s
  | none => .refused .observerModeUndefined

/-- DISPLAY_ON: `on <- 1` (R48). -/
def execDisplayOn (s : State) : Host.Outcome State Fault Refusal := onController (fun c => { c with on := true }) s

/-- SET_COL_LO: `colPtr <- (colPtr & 0x70) | b[3:0]` (R48). -/
def execSetColLo (n : BitVec 4) (s : State) : Host.Outcome State Fault Refusal :=
  onController (fun c => { c with colPtr := (c.colPtr &&& 0x70) ||| n.zeroExtend 7 }) s

/-- SET_COL_HI: `colPtr <- (b[2:0] << 4) | (colPtr & 0x0F)` (R48). -/
def execSetColHi (n : BitVec 3) (s : State) : Host.Outcome State Fault Refusal :=
  onController (fun c => { c with colPtr := (n.zeroExtend 7 <<< 4) ||| (c.colPtr &&& 0x0F) }) s

/-- SET_PAGE: `pagePtr <- b[2:0]` (R48). -/
def execSetPage (n : Page) (s : State) : Host.Outcome State Fault Refusal :=
  onController (fun c => { c with pagePtr := n }) s

/-- The observer's commands that are no row of the table (R48). -/
def Controller.extra (c : Controller) : ExtraCommand → Controller
  | .columnRange a b =>
    { c with colStart := a.extractLsb' 0 7, colEnd := b.extractLsb' 0 7, colPtr := a.extractLsb' 0 7 }
  | .pageRange a b =>
    { c with pageStart := a.extractLsb' 0 3, pageEnd := b.extractLsb' 0 3, pagePtr := a.extractLsb' 0 3 }
  | .entireDisplay op => { c with entire := op }

/-- An addressing mode read from a free byte. -/
def AddrMode.ofFree (v : Byte) : AddrMode :=
  if v.toNat % 3 = 0 then .horizontal else if v.toNat % 3 = 1 then .vertical else .page

/-- The command that byte `b` begins was cut off before its last parameter (R50, R140). What becomes of the registers that
it writes is not stated: they take free bytes, from draw `n` on. Everything else stays (log 14). -/
def Controller.cutShort (c : Controller) (n : Nat) (b : Byte) : Controller :=
  let v := fun i => Config.freeByte (n + i)
  if b = 0x20 then { c with amode := .ofFree (v 0) }
  else if b = 0x21 then
    { c with colStart := (v 0).extractLsb' 0 7, colEnd := (v 1).extractLsb' 0 7, colPtr := (v 2).extractLsb' 0 7 }
  else if b = 0x22 then
    { c with pageStart := (v 0).extractLsb' 0 3, pageEnd := (v 1).extractLsb' 0 3, pagePtr := (v 2).extractLsb' 0 3 }
  else if b = 0x81 then { c with contrast := v 0 }
  else if b = 0x8D then { c with chargePump := v 0 }
  else if b = 0xA8 then { c with muxRatio := v 0 }
  else if b = 0xD3 then { c with offset := v 0 }
  else if b = 0xD5 then { c with clockDiv := v 0 }
  else if b = 0xD9 then { c with precharge := v 0 }
  else if b = 0xDA then { c with comPins := v 0 }
  else if b = 0xDB then { c with vcomh := v 0 }
  else c

/-- The controller has taken in the rest of a command string that ends inside the command of byte `b`. -/
def cutCommand (b : Byte) (s : State) : State :=
  { s with ctl := { s.ctl.cutShort s.draws b with rx := [] }, draws := s.draws + 3 }

end Sys2Proof.Machine
end

