-- ==== Sys2Proof/Machine/Observer.lean ====
section
/-! DEFINITION. How the controller takes in a frame (R47), and the picture it shows (R52). -/

namespace Sys2Proof.Machine

/-- What the controller does next with the bytes it was sent. -/
inductive Fetched where
  /-- A row of the opcode table, and the controller past its bytes. -/
  | instr (i : Instr) (c : Controller)
  /-- Display data, a control byte that is no row, or a command that is no row: the controller after it. -/
  | other (c : Controller)
  /-- The command string ends inside the command that byte `b` begins. -/
  | cut (b : Byte)
  /-- The observer refuses the frame. -/
  | refuse (r : Reject)
  deriving DecidableEq, Repr

/-- The head of a command string, for a controller that is at `c` once the head's bytes are gone. -/
def fetchCommand (d : CommandDecoded) (past : List Byte → Controller) : Fetched :=
  match d with
  | .instr i rest => .instr i (past rest)
  | .extra x rest => .other ((past rest).extra x)
  | .reject r => .refuse r

/-- One turn of the loops of R47. A data stream is taken in whole. A command that needs a parameter has none after a
single-command prefix, and the observer refuses it; in a command stream the string was cut (R140). -/
def Controller.fetch (c : Controller) : Fetched :=
  match c.rx with
  | [] => .other c
  | b :: bs =>
    match c.rxPos with
    | .control =>
      match decodeControl b with
      | .ok i => .instr i { c with rx := bs }
      | .reject _ => .other { c with rx := bs, rxPos := positionAfter b }
    | .singleCommand => fetchCommand (decodeCommand b []) fun _ => { c with rx := bs, rxPos := .control }
    | .singleData => .other (Controller.data { c with rx := bs, rxPos := .control } b)
    | .commandStream =>
      match decodeCommand b bs with
      | .reject (.missingParameter _) => .cut b
      | d => fetchCommand d fun rest => { c with rx := rest }
    | .dataStream => .other (Controller.dataStream { c with rx := [] } (b :: bs))

/-- The logical pixel at column `x`, row `y`: `RAM[y div 8][x][y mod 8]` (R29, R52), where the byte is known. -/
def Controller.pixel (c : Controller) (x y : Nat) : Option Bool :=
  (Memory.read c.ram (128 * (y / 8) + x)).map fun b => b.getLsbD (y % 8)

/-- Whether that pixel is shown lit: `on ∧ (pixel ⊕ inverted)` (R52). With the display off it is dark, known or not. -/
def Controller.shown (c : Controller) (x y : Nat) : Option Bool :=
  if c.on then (c.pixel x y).map fun lit => lit ^^ c.inverted else some false

end Sys2Proof.Machine
end

