-- ==== Sys2Proof/Machine/Prefixes.lean ====
section
/-! DEFINITION. The control prefixes (R53) as the controller takes them: each says how the bytes after it are read (R47). -/

namespace Sys2Proof.Machine

/-- 0x80, single command. -/
def execPrefixSingleCommand (s : State) : Host.Outcome State Fault Refusal :=
  onController (fun c => { c with rxPos := positionAfter 0x80 }) s

/-- 0x00, command stream. -/
def execPrefixCommandStream (s : State) : Host.Outcome State Fault Refusal :=
  onController (fun c => { c with rxPos := positionAfter 0x00 }) s

/-- 0x40, data stream. -/
def execPrefixDataStream (s : State) : Host.Outcome State Fault Refusal :=
  onController (fun c => { c with rxPos := positionAfter 0x40 }) s

end Sys2Proof.Machine
end

