-- ==== Sys2Proof/Machine/Glyph.lean ====
section
/-! DEFINITION. The glyph table accessor and the rasterizer (40_glyph_table.md). -/

namespace Sys2Proof.Machine

/-- `Glyph(code)` in a glyph table (R79, R81); nothing stands for `OutOfRange`. The bound is the entry count (90_conflicts.md C3). -/
def glyph (font : List Byte) (code : Int) : Option (List Byte) :=
  if code < 0 ∨ 127 < code then none else some (memRead font (8 * code.toNat) 8)

/-- `RasterGlyph(code)` (R83); nothing stands for `OutOfRangeError`. -/
def rasterGlyph (policy : HighCodePolicy) (font : List Byte) (code : Byte) : Option (List Byte) :=
  if code.toNat ≤ 127 then glyph font code.toNat
  else match policy with
    | .blank => some (zeros 8)
    | .reject => none

end Sys2Proof.Machine
end

