-- ==== Sys2Proof/Machine/Encoder.lean ====
section
/-! DEFINITION. The command encoder (41_command_encoder.md): the seven kinds of frame of R58. -/

namespace Sys2Proof.Machine

/-- `InitFrame(H)` (R87): always 25 bytes. -/
def initFrame (t : InitTuning) (H : Nat) : Frame :=
  [0x00,
   0xAE,
   0xD5, t.clockDiv,
   0xA8, muxParameter H,
   0xD3, 0x00,
   0x40,
   0x8D, t.chargePump,
   t.segRemap, t.comScan,
   0xDA, comPinsOf t H,
   0x81, 0x7F,
   0xD9, t.precharge,
   0xDB, t.vcomh,
   0xA6,
   0x20, 0x00,
   0xAF]

/-- `ClearPageFrame(N)` (R88): `W + 3` bytes, one transport write (R57). -/
def clearPageFrame (W : Nat) (N : Page) : Frame := [0x80, pageCommand N, 0x40] ++ zeros W

/-- `ResetFrame(N)` (R89). -/
def resetFrame (N : Page) : Frame := [0x00, pageCommand N, 0x00, 0x10]

/-- `DataFrame(d)` (R90). -/
def dataFrame (d : List Byte) : Frame := 0x40 :: d

/-- `ContrastFrame(v)` (R91); `v` is in 0..255 when it gets here (R62). -/
def contrastFrame (v : Int) : Frame := [0x00, 0x81, BitVec.ofInt 8 v]

/-- `InversionFrame(b)` (R92): the operand selects the mode; nothing is toggled. -/
def inversionFrame (b : Bool) : Frame := if b then [0x80, 0xA7] else [0x80, 0xA6]

end Sys2Proof.Machine
end

