-- ==== Sys2Proof/Machine/Render.lean ====
section
/-! DEFINITION. The render pipeline (42_render_pipeline.md): the planning functions and the meanings of CLEAR, SET_TEXT, SET_BITMAP, SET_QRCODE, SET_CONTRAST and SET_INVERSION. -/

namespace Sys2Proof.Machine

/-- `PlanClear()` (R93). -/
def planClear (r : Session) : Planned :=
  .plan ((List.range r.pages).map fun N => clearPageFrame r.W (BitVec.ofNat 3 N)) r.addr .keep

/-- The frames after the first of `PlanText` (R94): a RESET frame for a newline, a GLYPH frame for any other byte;
a code that RasterGlyph raises on stops the planning. No column is tracked (R95). -/
def textFrames (policy : HighCodePolicy) (font : List Byte) (P : Nat) : Page → List Byte → Except Byte (List Frame)
  | _, [] => .ok []
  | page, b :: bs =>
    if b = newline then
      match textFrames policy font P (nextPage P page) bs with
      | .ok fs => .ok (resetFrame (nextPage P page) :: fs)
      | .error c => .error c
    else
      match rasterGlyph policy font b with
      | none => .error b
      | some g =>
        match textFrames policy font P page bs with
        | .ok fs => .ok (dataFrame g :: fs)
        | .error c => .error c

/-- `PlanText(text)` (R94): under `Reject` every byte is checked before the first frame is planned. -/
def planText (policy : HighCodePolicy) (r : Session) (text : List Byte) : Planned :=
  match policy, firstHigh text with
  | .reject, some i => .error .outOfRange (.textIndex i)
  | _, _ =>
    match textFrames policy r.font r.pages 0 text with
    | .ok fs => .plan (resetFrame 0 :: fs) r.addr .keep
    | .error c => .error .outOfRange (.code c)

/-- The frames of a bitmap of `w` columns and `pages` page runs (R31, R96). -/
def bitmapFrames (bytes : List Byte) (w pages : Nat) : List Frame :=
  (List.range pages).flatMap fun p => [resetFrame (BitVec.ofNat 3 p), dataFrame (memRead bytes (p * w) w)]

/-- `PlanBitmap(bytes, w, h)` (R96). -/
def planBitmap (r : Session) (bytes : List Byte) (w h : Int) : Planned :=
  if w < 1 ∨ (r.W : Int) < w ∨ h < 8 ∨ (r.H : Int) < h ∨ h % 8 ≠ 0 ∨ (bytes.length : Int) ≠ w * (h / 8) then
    .error .outOfRange (.bitmap w h bytes.length)
  else .plan (bitmapFrames bytes w.toNat (h / 8).toNat) r.addr .keep

/-- `QR_GEOMETRY(bytes, W, H)` (R98). -/
def qrGeometry (g : QrGeometry) (bytes : List Byte) (W H : Nat) : Option (Int × Int) :=
  match g with
  | .fullScreen => if bytes.length = W * (H / 8) then some ((W : Int), (H : Int)) else none
  | .platform => Config.qrGeometry bytes W H

/-- `PlanQR(bytes)` (R97). -/
def planQr (g : QrGeometry) (r : Session) (bytes : List Byte) : Planned :=
  match qrGeometry g bytes r.W r.H with
  | none => .error .outOfRange (.payload bytes.length)
  | some (w, h) => planBitmap r bytes w h

/-- `PlanContrast(value)` (R99): rejected out of range, never clamped (90_conflicts.md C4). -/
def planContrast (r : Session) (v : Int) : Planned :=
  if v < 0 ∨ 255 < v then .error .outOfRange (.value v) else .plan [contrastFrame v] r.addr .keep

/-- `PlanInversion(invert)` (R100). -/
def planInversion (r : Session) (b : Bool) : Planned := .plan [inversionFrame b] r.addr .keep

/-- CLEAR (R93). -/
def execClear (s : State) : Host.Outcome State Fault Refusal :=
  accept .display (planClear s.reg) s.textPage s

/-- SET_TEXT (R94). -/
def execSetText (text : List Byte) (s : State) : Host.Outcome State Fault Refusal :=
  accept .display (planText s.par.highCode s.reg text) (lastPage s.reg.pages text) s

/-- SET_BITMAP (R96). -/
def execSetBitmap (bytes : List Byte) (width height : Int) (s : State) : Host.Outcome State Fault Refusal :=
  accept .display (planBitmap s.reg bytes width height) s.textPage s

/-- SET_QRCODE (R97). -/
def execSetQrcode (bytes : List Byte) (s : State) : Host.Outcome State Fault Refusal :=
  accept .display (planQr s.par.qr s.reg bytes) s.textPage s

/-- SET_CONTRAST (R99). -/
def execSetContrast (value : Int) (s : State) : Host.Outcome State Fault Refusal :=
  accept .display (planContrast s.reg value) s.textPage s

/-- SET_INVERSION (R100). -/
def execSetInversion (invert : Bool) (s : State) : Host.Outcome State Fault Refusal :=
  accept .display (planInversion s.reg invert) s.textPage s

end Sys2Proof.Machine
end

