-- ==== Sys2Proof/Machine/Reserved.lean ====
section
/-! DEFINITION. The reserved request opcodes (R65, R74): answered UnsupportedRequestError with no frame, in every session state (R104, R121). -/

namespace Sys2Proof.Machine

/-- Opcode 0x00 (R65, R120). -/
def execReserved00 (s : State) : Host.Outcome State Fault Refusal := acceptUnsupported (.opcode 0x00) s

/-- Opcodes 0x09..0xFF (R65, R120). An `op` of 0x00 to 0x08, which only a record can hold that is no record of R65, is answered
like the others: the model's choice (log 21). -/
def execReserved09FF (op : Byte) (s : State) : Host.Outcome State Fault Refusal := acceptUnsupported (.opcode op) s

end Sys2Proof.Machine
end

