-- ==== Sys2Proof/Machine/Session.lean ====
section
/-! DEFINITION. The session sequencer (43_session.md): OPEN and CLOSE, the submit, emit and complete steps, and the resets. -/

namespace Sys2Proof.Machine

/-! ## OPEN and CLOSE -/

/-- `PlanOpen(cfg)` (R111): the checks in the order of R116, the first that fails names the info. -/
def planOpen (t : InitTuning) (addr : Option Int) (width height : Int) (mode : Mode) (busPresent : Bool)
    (font : Option (List Byte)) : Planned :=
  let a := addr.getD (Config.addrDefault.toNat : Int)
  if a < 0 ∨ 0x7F < a then .error .configuration (.field .addr)
  else if width < 1 ∨ 128 < width then .error .configuration (.field .width)
  else if ¬(height = 32 ∨ height = 64) then .error .configuration (.field .height)
  else if busPresent = false then .error .configuration (.field .bus)
  else if (font.any fun f => decide (f.length ≠ 1024)) = true then .error .configuration (.field .font)
  else .plan [initFrame t height.toNat] (BitVec.ofInt 7 a)
    (.opened (BitVec.ofInt 7 a) width.toNat height.toNat mode (font.getD Config.defaultFont))

/-- `PlanClose()` (R112): no frame. -/
def planClose (r : Session) : Planned := .plan [] r.addr .closed

/-- OPEN (R111). -/
def execOpen (addr : Option Int) (width height : Int) (mode : Mode) (busPresent : Bool) (font : Option (List Byte))
    (s : State) : Host.Outcome State Fault Refusal :=
  accept .opening (planOpen s.par.tuning addr width height mode busPresent font) s.textPage s

/-- CLOSE (R112). -/
def execClose (s : State) : Host.Outcome State Fault Refusal :=
  accept .closing (planClose s.reg) s.textPage s

/-! ## The steps -/

/-- `Submit(c, req)` (R102), with its copy of the operands (R42). -/
def submit (c : Nat) (req : Request) (s : State) : State :=
  { s with queue := s.queue ++ [(c, req)], waiting := addCaller c s.waiting }

/-- `apply I.commit to the session registers` (R109, R111, R112). -/
def applyCommit (r : Session) : Commit → Session
  | .keep => r
  | .opened a W H mode font =>
    { sess := .opened, addr := a, W := W, H := H, mode := mode, bus := .held, font := font }
  | .closed => { r with sess := .closed, bus := .released }

/-- `CompleteStep()` (R109). -/
def completeStep (op : Operation) (s : State) : State :=
  respond op.caller .ok (endOperation { s with reg := applyCommit s.reg op.commit })

/-- What of a frame to `addr` reaches the panel (R50): a frame to another address has no effect on it. -/
def toPanel (addr : BusAddr) (bytes : List Byte) (s : State) : State :=
  if addr = s.par.panelAddr then deliver bytes s else s

/-- The transport answers `ok` (R107, R108): the whole frame was written and the frame index advances by one. -/
def emitOk (op : Operation) (f : Frame) (s : State) : State :=
  let t := toPanel op.addr f { s with trace := s.trace ++ [.write op.caller op.addr f .ok] }
  { t with seq := t.seq + 1 }

/-- The transport answers `fail(reason)` (R107, R108): the rest of the operation is abandoned, the commit is not applied,
nothing is retried (R124), and the caller is answered. -/
def emitFail (op : Operation) (f : Frame) (reason : TransportReason) (delivered : Nat) (s : State) : State :=
  let t := toPanel op.addr (f.take delivered)
    { s with trace := s.trace ++ [.write op.caller op.addr f (.fail reason delivered)] }
  answerError op.caller .transport (.reason reason) (endOperation t)

/-- `EmitStep()` (R108) with frame `f`. Until the transport answers, the engine holds (R107). That the output sequence has no
event for the call while it is out, and one when it is answered, is the model's choice (log 31). -/
def emitStep (op : Operation) (f : Frame) (s : State) : State :=
  match s.answers with
  | [] => s
  | .ok :: as => emitOk op f { s with answers := as }
  | .fail reason delivered :: as => emitFail op f reason delivered { s with answers := as }

/-! ## Resets -/

/-- The block's own state at reset (R134): the operation in flight and the queue are discarded without a response. -/
def resetBlock (s : State) : State :=
  { s with
    reg := .reset
    textPage := 0
    queue := []
    waiting := []
    inflight := none
    seq := 0
    trace := s.trace ++ [.blockReset] }

/-- The transport call that is out, when one can be: the operation in flight and its next frame (R107). It stands here and not
in the trace (log 31). None is out while
the panel still takes in the frame before it (log 10). -/
def State.outstanding (s : State) : Option (Operation × Frame) :=
  match s.inflight with
  | none => none
  | some op => if s.ctl.rx = [] then (op.frames[s.seq]?).map fun f => (op, f) else none

/-- A reset of the block (R134). If a transport call was out, some prefix of its frame reached the controller (93 I6, I23). -/
def blockReset (cut : Option Nat) (s : State) : State :=
  match cut, s.outstanding with
  | some k, some (op, f) =>
    resetBlock (toPanel op.addr (f.take k)
      { s with trace := s.trace ++ [.abandoned op.caller op.addr f] })
  | _, _ => resetBlock s

/-- A hardware reset of the panel, outside the block (R46, R136). -/
def panelReset (s : State) : State := { s with ctl := .afterReset }

end Sys2Proof.Machine
end

