-- ==== Sys2Proof/Machine/Dispatch.lean ====
section
/-! DEFINITION. One arm for each constructor of Instr. -/

namespace Sys2Proof.Machine

def exec (i : Instr) (s : State) : Host.Outcome State Fault Refusal :=
  match i with
  | .openSession addr width height mode bus font => Sys2Proof.Machine.execOpen addr width height mode bus font s
  | .closeSession => Sys2Proof.Machine.execClose s
  | .clear => Sys2Proof.Machine.execClear s
  | .setText text => Sys2Proof.Machine.execSetText text s
  | .setBitmap bytes width height => Sys2Proof.Machine.execSetBitmap bytes width height s
  | .setQrcode bytes => Sys2Proof.Machine.execSetQrcode bytes s
  | .setContrast value => Sys2Proof.Machine.execSetContrast value s
  | .setInversion invert => Sys2Proof.Machine.execSetInversion invert s
  | .reserved00 => Sys2Proof.Machine.execReserved00 s
  | .reserved09FF op => Sys2Proof.Machine.execReserved09FF op s
  | .prefixSingleCommand => Sys2Proof.Machine.execPrefixSingleCommand s
  | .prefixCommandStream => Sys2Proof.Machine.execPrefixCommandStream s
  | .prefixDataStream => Sys2Proof.Machine.execPrefixDataStream s
  | .displayOff => Sys2Proof.Machine.execDisplayOff s
  | .setClockDiv v => Sys2Proof.Machine.execSetClockDiv v s
  | .setMuxRatio v => Sys2Proof.Machine.execSetMuxRatio v s
  | .setDisplayOffset v => Sys2Proof.Machine.execSetDisplayOffset v s
  | .setStartLine line => Sys2Proof.Machine.execSetStartLine line s
  | .chargePump v => Sys2Proof.Machine.execChargePump v s
  | .segRemap remap => Sys2Proof.Machine.execSegRemap remap s
  | .comScanDir dir => Sys2Proof.Machine.execComScanDir dir s
  | .setComPins v => Sys2Proof.Machine.execSetComPins v s
  | .setContrastCmd v => Sys2Proof.Machine.execSetContrastCmd v s
  | .setPrecharge v => Sys2Proof.Machine.execSetPrecharge v s
  | .setVcomh v => Sys2Proof.Machine.execSetVcomh v s
  | .normalDisplay => Sys2Proof.Machine.execNormalDisplay s
  | .invertDisplay => Sys2Proof.Machine.execInvertDisplay s
  | .setMemMode m => Sys2Proof.Machine.execSetMemMode m s
  | .displayOn => Sys2Proof.Machine.execDisplayOn s
  | .setColLo n => Sys2Proof.Machine.execSetColLo n s
  | .setColHi n => Sys2Proof.Machine.execSetColHi n s
  | .setPage n => Sys2Proof.Machine.execSetPage n s

end Sys2Proof.Machine
end

