-- ==== Sys2Proof/Machine/Step.lean ====
section
/-! DEFINITION. One step of the machine: which agent moves, and the one thing it does. -/

namespace Sys2Proof.Machine

/-- The accept step (R103): the request at the head of the queue is decoded (R104), then runs. -/
def acceptStep (s : State) : Host.Outcome State Fault Refusal :=
  match s.queue with
  | [] => .next s
  | (_, req) :: _ =>
    match decodeRequest req with
    | .ok i => exec i s
    | .reject r => acceptUnsupported (.malformed r) s

/-- The engine's step: accept, emit or complete (R103, R108, R109); with nothing to do it changes nothing (R135). -/
def engineStep (s : State) : Host.Outcome State Fault Refusal :=
  match s.inflight with
  | none => acceptStep s
  | some op =>
    match op.frames[s.seq]? with
    | some f => .next (emitStep op f s)
    | none => if s.seq = op.frames.length then .next (completeStep op s) else .fault .frameIndexPastEnd

/-- The controller's step: it takes in the next part of a delivered frame (R47). -/
def controllerStep (s : State) : Host.Outcome State Fault Refusal :=
  match s.ctl.fetch with
  | .instr i c => exec i { s with ctl := c }
  | .other c => .next { s with ctl := c }
  | .cut b => .next (cutCommand b s)
  | .refuse r => .refused (.observerRefuses r)

/-- The machine moves by itself: a delivered frame is taken in whole before the engine goes on (R50, log 10). -/
def internalStep (s : State) : Host.Outcome State Fault Refusal :=
  if s.ctl.rx = [] then engineStep s else controllerStep s

/-- One step: what the outside does next, or else the machine's own step. -/
def step (s : State) : Host.Outcome State Fault Refusal :=
  match s.turns with
  | [] => internalStep s
  | .run :: ts => internalStep { s with turns := ts }
  | .submit c req :: ts =>
    if c < s.par.nCallers then
      if c ∈ s.waiting then internalStep s else .next (submit c req { s with turns := ts })
    else .refused (.noSuchCaller c)
  | .blockReset cut :: ts => .next (blockReset cut { s with turns := ts })
  | .panelReset :: ts => .next (panelReset { s with turns := ts })

/-- `s` with the bytes of a table word where the next step fetches them (log 17): a request as the head of the arrival
queue, submitted by caller 0; a control byte or a command as the bytes the controller takes in next. -/
def State.withFetchWord (s : State) (nbits w : Nat) : State :=
  match tableBytes nbits w with
  | [] => s
  | b :: bs =>
    match tablePort b with
    | .request =>
      { s with
        turns := [], inflight := none, ctl := { s.ctl with rx := [] }
        queue := (0, .serial (b :: bs)) :: s.queue, waiting := addCaller 0 s.waiting }
    | .control => { s with turns := [], ctl := { s.ctl with rx := b :: bs, rxPos := .control } }
    | .command => { s with turns := [], ctl := { s.ctl with rx := b :: bs, rxPos := .commandStream } }

end Sys2Proof.Machine
end

