-- ==== Sys2Proof/Safety.lean ====
section
/-! DEFINITION. What counts as a safe state and a listed frame, in the terms the claims use. -/

namespace Sys2Proof.Machine

/-! ## Frames (R58) -/

/-- The seven kinds of frame of R58. -/
inductive FrameKind where
  | init (H : Nat)
  | clearPage (W : Nat) (N : Page)
  | reset (N : Page)
  | glyph (g : List Byte)
  | run (r : List Byte)
  | contrast (v : Byte)
  | inversion (b : Bool)
  deriving DecidableEq, Repr

/-- The side conditions of a kind, on a display of at most `maxW` columns and `pages` pages. -/
def FrameKind.valid (maxW pages : Nat) : FrameKind → Prop
  | .init H => H = 32 ∨ H = 64
  | .clearPage W N => W = maxW ∧ N.toNat < pages
  | .reset N => N.toNat < pages
  | .glyph g => g.length = 8
  | .run r => 1 ≤ r.length ∧ r.length ≤ maxW
  | .contrast _ => True
  | .inversion _ => True

/-- The bytes column of R58, written out. -/
def FrameKind.bytes (t : InitTuning) : FrameKind → Frame
  | .init H => initFrame t H
  | .clearPage W N => [0x80, 0xB0 ||| N.zeroExtend 8, 0x40] ++ zeros W
  | .reset N => [0x00, 0xB0 ||| N.zeroExtend 8, 0x00, 0x10]
  | .glyph g => [0x40] ++ g
  | .run r => [0x40] ++ r
  | .contrast v => [0x00, 0x81, v]
  | .inversion b => [0x80, if b then 0xA7 else 0xA6]

/-- `f` is one of the seven kinds of R58, on a display of `W` columns and `pages` pages. -/
def listedFrame (t : InitTuning) (W pages : Nat) (f : Frame) : Prop :=
  ∃ k : FrameKind, k.valid W pages ∧ k.bytes t = f

/-! ## What the observer can take in (R47) -/

/-- SET_MEM_MODE has a mode the observer knows (R48). -/
def commandDefined : Instr → Bool
  | .setMemMode m => (AddrMode.ofBits (m.extractLsb' 0 2)).isSome
  | _ => true

/-- The bytes that the table of R48 does not list. -/
def unlisted (b : Byte) : Prop :=
  let n := b.toNat
  0x18 ≤ n ∧ n ≤ 0x1F ∨ 0x23 ≤ n ∧ n ≤ 0x3F ∨ n = 0x80 ∨ 0x82 ≤ n ∧ n ≤ 0x8C ∨ 0x8E ≤ n ∧ n ≤ 0x9F ∨
  0xA2 ≤ n ∧ n ≤ 0xA3 ∨ 0xA9 ≤ n ∧ n ≤ 0xAD ∨ 0xB8 ≤ n ∧ n ≤ 0xBF ∨ 0xC1 ≤ n ∧ n ≤ 0xC7 ∨ 0xC9 ≤ n ∧ n ≤ 0xD2 ∨
  n = 0xD4 ∨ 0xD6 ≤ n ∧ n ≤ 0xD8 ∨ 0xDC ≤ n

/-- The observer refuses nothing in the bytes `bs`, read from position `pos`; `fuel` bounds their number. -/
def readable : Nat → RxPos → List Byte → Bool
  | _, _, [] => true
  | 0, _, _ :: _ => false
  | n + 1, .control, b :: bs => readable n (positionAfter b) bs
  | n + 1, .singleCommand, b :: bs =>
    match decodeCommand b [] with
    | .instr i _ => commandDefined i && readable n .control bs
    | .extra _ _ => readable n .control bs
    | .reject _ => false
  | n + 1, .singleData, _ :: bs => readable n .control bs
  | n + 1, .commandStream, b :: bs =>
    match decodeCommand b bs with
    | .instr i rest => commandDefined i && readable n .commandStream rest
    | .extra _ rest => readable n .commandStream rest
    | .reject (.missingParameter _) => true
    | .reject _ => false
  | _ + 1, .dataStream, _ :: _ => true

/-! ## Words the claims use -/

/-- The eight assigned requests (R65). -/
def assigned : Instr → Bool
  | .openSession .. | .closeSession | .clear | .setText _ | .setBitmap .. | .setQrcode _
  | .setContrast _ | .setInversion _ => true
  | _ => false

/-- OPEN (R105). -/
def isOpening : Instr → Bool
  | .openSession .. => true
  | _ => false

/-- An accept step can happen, and its request is `req` of caller `c` (R103). -/
def State.head (s : State) (c : Nat) (req : Request) (rest : List (Nat × Request)) : Prop :=
  s.inflight = none ∧ s.queue = (c, req) :: rest

/-- `s` after an accept step that starts an operation (R103). -/
def started (s : State) (c : Nat) (req : Request) (rest : List (Nat × Request)) (frames : List Frame) (addr : BusAddr)
    (commit : Commit) : State :=
  { s with
    queue := rest
    inflight := some { caller := c, req := req, frames := frames, addr := addr, commit := commit }
    seq := 0 }

/-- `s` after an accept step that answers with an error (R103, R122): only the queue and the caller's slot change. -/
def turnedAway (s : State) (c : Nat) (rest : List (Nat × Request)) (k : ErrKind) (info : Info) : State :=
  { s with
    queue := rest
    waiting := s.waiting.filter fun d => decide (d ≠ c)
    trace := s.trace ++ [.respond c (.err k info)] }

/-- `s` with another backend mode (R12). -/
def State.withMode (m : Mode) (s : State) : State := { s with reg := { s.reg with mode := m } }

/-- The controller has nothing left to take in: when the machine moves by itself, the engine moves. -/
def State.engineNext (s : State) : Prop := s.ctl.rx = []

/-- The controller has `bytes` to take in at `pos`: when the machine moves by itself, the controller moves. -/
def State.receiving (s : State) (pos : RxPos) (bytes : List Byte) : Prop :=
  s.ctl.rx = bytes ∧ s.ctl.rxPos = pos

/-! ## The invariant -/

/-- Legal display dimensions (R9, R10). -/
def legalSize (W H : Nat) : Prop := 1 ≤ W ∧ W ≤ 128 ∧ (H = 32 ∨ H = 64)

/-- The parameters are admissible (R86, 00_scope.md section 3). -/
def paramsOk (p : Params) : Prop := p.tuning.admissible = true ∧ 1 ≤ p.nCallers

/-- An Open session holds a legal configuration and the bus (R9, R10, R13, R14); no other session holds the bus. -/
def Session.ok (r : Session) : Prop :=
  match r.sess with
  | .opened => legalSize r.W r.H ∧ r.font.length = 1024 ∧ r.bus = .held
  | .idle | .closed => r.bus = .released

/-- The operation in flight is one that the session state admits (R105), with the frames of its request (R106). -/
def Operation.ok (t : InitTuning) (r : Session) (op : Operation) : Prop :=
  match op.commit with
  | .opened a W H _ font =>
    r.sess = .idle ∧ legalSize W H ∧ font.length = 1024 ∧ op.addr = a ∧ op.frames = [initFrame t H]
  | .closed => r.sess = .opened ∧ op.frames = [] ∧ op.addr = r.addr
  | .keep => r.sess = .opened ∧ op.addr = r.addr ∧ ∀ f ∈ op.frames, listedFrame t r.W r.pages f

/-- The callers with a request in the block: the one in flight, then the queue. -/
def State.callersInside (s : State) : List Nat :=
  (match s.inflight with
    | none => []
    | some op => [op.caller]) ++ s.queue.map fun q => q.1

/-- A caller's slot is waiting exactly when one request of it is queued or in flight (R18), and callers are the block's own (R131). -/
def State.callersOk (s : State) : Prop :=
  s.waiting.Pairwise (· < ·) ∧ (∀ c ∈ s.waiting, c < s.par.nCallers) ∧ List.Perm s.callersInside s.waiting

/-- The callers of the coming submit turns exist (R1). -/
def State.turnsOk (s : State) : Prop := ∀ c req, Turn.submit c req ∈ s.turns → c < s.par.nCallers

/-- What every reachable state satisfies. -/
def State.Inv (s : State) : Prop :=
  paramsOk s.par ∧ s.reg.ok ∧
  (∀ op, s.inflight = some op → s.seq ≤ op.frames.length ∧ op.ok s.par.tuning s.reg) ∧
  s.callersOk ∧ s.turnsOk ∧
  Memory.wf s.ctl.ram = true ∧
  readable s.ctl.rx.length s.ctl.rxPos s.ctl.rx = true

/-- The machine goes on from `s`: no fault and no refusal. -/
def goesOn (s : State) : Prop := ∃ t, step s = .next t

/-- The transport writes of a trace, in order: target and frame. -/
def writesOf : List Event → List (BusAddr × Frame)
  | [] => []
  | .write _ a f _ :: es => (a, f) :: writesOf es
  | _ :: es => writesOf es

/-- No operation's writes are split by another's (R38): two writes next to each other are of one caller, and a response
next to a write answers the caller of that write. -/
def contiguous : List Event → Prop
  | [] => True
  | [_] => True
  | .write c _ _ _ :: .write d a f r :: es => c = d ∧ contiguous (.write d a f r :: es)
  | .write c _ _ _ :: .respond d r :: es => c = d ∧ contiguous (.respond d r :: es)
  | _ :: e :: es => contiguous (e :: es)

/-- The trace is contiguous, and its last write, when nothing has followed it, is the operation's in flight. -/
def State.traceOk (s : State) : Prop :=
  contiguous s.trace ∧
  ∀ es c a f r, s.trace = es ++ [.write c a f r] → ∃ op, s.inflight = some op ∧ op.caller = c

/-- The display that `n` clear-page frames leave, page 0 first (R51, R88). -/
def clearPages (W n : Nat) (c : Controller) : Controller :=
  (List.range n).foldl
    (fun c N => Controller.dataStream { c with pagePtr := BitVec.ofNat 3 N } (zeros W)) c

end Sys2Proof.Machine
end

