-- ==== Sys2Proof/Certificates/Slice0/Obligations.lean ====
section
/-! DEFINITION. The statements about the machine, for the provers. Each docstring names the rules of spec/ it formalises. -/

open Sys2Proof Sys2Proof.Machine

/-! ## Encoding -/

/-- Every request that has a message decodes from it to itself (R66 to R73), with every operand at every value its field admits. -/
def Obligations.RequestMessagesRoundTrip : Prop :=
  ∀ i : Instr, i.wf = true → i.port = .request → decodeMessage (encode i) = .ok i

/-- Every message that decodes is the message of the request it decodes to, which has one (R65 to R73). So no two messages
of an assigned opcode are one request. That a reserved opcode may have bytes after it is the model's reading (log 20): R65
reserves the opcode and gives it no layout. -/
def Obligations.DecodedMessagesReencode : Prop :=
  ∀ (msg : List Byte) (i : Instr), decodeMessage msg = .ok i →
    i.wf = true ∧ i.port = .request ∧
      (encode i = msg ∨ (assigned i = false ∧ ∃ tail, msg = encode i ++ tail))

/-- A controller command decodes from its bytes to itself whatever follows them, and so does a control byte (R53, R59). -/
def Obligations.FrameBytesRoundTrip : Prop :=
  (∀ (i : Instr) (rest : List Byte), i.port = .command →
    ∃ b bs, encode i = b :: bs ∧ decodeCommand b (bs ++ rest) = .instr i rest) ∧
  (∀ i : Instr, i.port = .control → ∃ b, encode i = [b] ∧ decodeControl b = .ok i)

/-- Words written out from the spec's encodings decode to what they stand for (95_test_vectors.md L2.5, L2.7; R59). -/
def Obligations.SpecWordsDecode : Prop :=
  decodeMessage [0x01, 0x00, 0x80, 0x40, 0x0A] = .ok (.openSession none 128 64 .software true none) ∧
  decodeMessage [0x01, 0x3D, 0x80, 0x20, 0x02] = .ok (.openSession (some 61) 128 32 .software true none) ∧
  decodeMessage [0x02] = .ok .closeSession ∧
  decodeMessage [0x03] = .ok .clear ∧
  decodeMessage [0x04, 0x03, 0x00, 0x00, 0x00, 0x41, 0x0A, 0x42] = .ok (.setText [0x41, 0x0A, 0x42]) ∧
  decodeMessage [0x05, 0x02, 0x00, 0x10, 0x00, 0x04, 0x00, 0x00, 0x00, 0x01, 0x02, 0x03, 0x04]
    = .ok (.setBitmap [0x01, 0x02, 0x03, 0x04] 2 16) ∧
  decodeMessage [0x06, 0x01, 0x00, 0x00, 0x00, 0xFF] = .ok (.setQrcode [0xFF]) ∧
  decodeMessage [0x07, 0xFF, 0xFF, 0xFF, 0xFF] = .ok (.setContrast (-1)) ∧
  decodeMessage [0x08, 0x01] = .ok (.setInversion true) ∧
  decodeMessage [0x09] = .ok (.reserved09FF 0x09) ∧
  decodeMessage [0x08, 0x02] = .reject .badBoolean ∧
  decodeMessage [0x01, 0x00, 0x80, 0x40, 0x1A] = .reject .reservedFlag ∧
  decodeMessage [0x01, 0x3C, 0x80, 0x40, 0x0A] = .reject .addressNotZero ∧
  decodeMessage [0x03, 0x00] = .reject .wrongLength ∧
  decodeControl 0x40 = .ok .prefixDataStream ∧
  decodeCommand 0xB5 [0x10] = .instr (.setPage 5) [0x10] ∧
  decodeCommand 0x81 [0x7F, 0xD9] = .instr (.setContrastCmd 0x7F) [0xD9]

/-! ## Frames -/

/-- `InitFrame(H)` is the command-stream prefix and the fifteen commands of the init sequence in their order, 25 bytes;
the multiplexer parameter is `H - 1` (R61, R87). -/
def Obligations.InitFrameIsTheInitSequence : Prop :=
  ∀ (t : InitTuning) (H : Nat), t.admissible = true → (H = 32 ∨ H = 64) →
    (initFrame t H).length = 25 ∧
    (muxParameter H).toNat = H - 1 ∧
    initFrame t H = encode .prefixCommandStream ++
      [.displayOff, .setClockDiv t.clockDiv, .setMuxRatio (BitVec.ofNat 8 (H - 1)), .setDisplayOffset 0x00,
       .setStartLine 0, .chargePump 0x14, .segRemap (t.segRemap == 0xA1), .comScanDir (t.comScan == 0xC8),
       .setComPins (if H = 32 then t.comPins32 else t.comPins64), .setContrastCmd 0x7F,
       .setPrecharge t.precharge, .setVcomh t.vcomh, .normalDisplay, .setMemMode 0x00,
       .displayOn].flatMap encode

/-- The clear-page, reset, contrast and inversion frames, byte by byte, with the page command's fields (R60, R88, R89, R91, R92). -/
def Obligations.EncoderFrameBytes : Prop :=
  (∀ (W : Nat) (N : Page), clearPageFrame W N = [0x80, pageCommand N, 0x40] ++ zeros W ∧
    (clearPageFrame W N).length = W + 3) ∧
  (∀ N : Page, resetFrame N = [0x00, pageCommand N, 0x00, 0x10] ∧ (pageCommand N).toNat = 0xB0 + N.toNat) ∧
  (∀ v : Int, 0 ≤ v → v ≤ 255 →
    ∃ b : Byte, (b.toNat : Int) = v ∧ contrastFrame v = [0x00, 0x81, b]) ∧
  inversionFrame true = [0x80, 0xA7] ∧ inversionFrame false = [0x80, 0xA6]

/-- `Glyph(code)` is the 8-byte entry of the code, and fails outside 0..127; the rasterizer adds the policy for high codes (R81, R83). -/
def Obligations.GlyphReadsItsEntry : Prop :=
  ∀ font : List Byte, font.length = 1024 →
    (∀ code : Int, 0 ≤ code → code ≤ 127 →
      ∃ g, glyph font code = some g ∧ g.length = 8 ∧
        ∀ j, j < 8 → g[j]? = font[8 * code.toNat + j]?) ∧
    (∀ code : Int, code < 0 ∨ 127 < code → glyph font code = none) ∧
    (∀ (policy : HighCodePolicy) (b : Byte), b.toNat ≤ 127 → rasterGlyph policy font b = glyph font b.toNat) ∧
    (∀ b : Byte, 128 ≤ b.toNat → rasterGlyph .blank font b = some (zeros 8) ∧ rasterGlyph .reject font b = none)

/-- The default font has 1024 bytes, and entries 0..32 are the blank glyph (R80). -/
def Obligations.DefaultFontBlankEntries : Prop :=
  Config.defaultFont.length = 1024 ∧
  ∀ code : Int, 0 ≤ code → code ≤ 32 → glyph Config.defaultFont code = some (zeros 8)

/-! ## Requests -/

/-- OPEN with a valid configuration on an Idle session starts the operation of one INIT frame to the configured address,
or to 0x3C, that latches the configuration on success (R111). -/
def Obligations.OpenStartsInit : Prop :=
  ∀ (s : State) (c : Nat) (req : Request) (rest : List (Nat × Request)) (addr : Option Int) (width height : Int)
    (mode : Mode) (font : Option (List Byte)),
    s.head c req rest → s.reg.sess = .idle →
    0 ≤ addr.getD 0x3C → addr.getD 0x3C ≤ 0x7F → 1 ≤ width → width ≤ 128 → (height = 32 ∨ height = 64) →
    (∀ f, font = some f → f.length = 1024) →
    exec (.openSession addr width height mode true font) s =
      .next (started s c req rest [initFrame s.par.tuning height.toNat] (BitVec.ofInt 7 (addr.getD 0x3C))
        (.opened (BitVec.ofInt 7 (addr.getD 0x3C)) width.toNat height.toNat mode (font.getD Config.defaultFont)))

/-- OPEN with an invalid configuration on an Idle session answers ConfigurationError, naming the first check that fails,
and emits nothing (R116). -/
def Obligations.OpenRejectsInvalidConfiguration : Prop :=
  ∀ (s : State) (c : Nat) (req : Request) (rest : List (Nat × Request)) (addr : Option Int) (width height : Int)
    (mode : Mode) (bus : Bool) (font : Option (List Byte)),
    s.head c req rest → s.reg.sess = .idle →
    let out := exec (.openSession addr width height mode bus font) s
    let no := fun f => Host.Outcome.next (turnedAway s c rest .configuration (.field f))
    let addrOk := 0 ≤ addr.getD 0x3C ∧ addr.getD 0x3C ≤ 0x7F
    let widthOk := 1 ≤ width ∧ width ≤ 128
    let heightOk := height = 32 ∨ height = 64
    (¬addrOk → out = no .addr) ∧
    (addrOk → ¬widthOk → out = no .width) ∧
    (addrOk → widthOk → ¬heightOk → out = no .height) ∧
    (addrOk → widthOk → heightOk → bus = false → out = no .bus) ∧
    (addrOk → widthOk → heightOk → bus = true → (∃ f, font = some f ∧ f.length ≠ 1024) → out = no .font)

/-- CLOSE on an Open session starts an operation of no frame that closes the session and releases the bus (R112). -/
def Obligations.CloseStarts : Prop :=
  ∀ (s : State) (c : Nat) (req : Request) (rest : List (Nat × Request)),
    s.head c req rest → s.reg.sess = .opened →
    exec .closeSession s = .next (started s c req rest [] s.reg.addr .closed) ∧
    ∀ r : Session, applyCommit r .closed = { r with sess := .closed, bus := .released }

/-- CLEAR on an Open session plans one clear-page frame of `W` zeros per page, page 0 first (R93). -/
def Obligations.ClearPlansOneFramePerPage : Prop :=
  ∀ (s : State) (c : Nat) (req : Request) (rest : List (Nat × Request)),
    s.head c req rest → s.reg.sess = .opened →
    ∃ frames, exec .clear s = .next (started s c req rest frames s.reg.addr .keep) ∧
      frames.length = s.reg.H / 8 ∧
      ∀ N, N < s.reg.H / 8 →
        frames[N]? = some ([0x80, pageCommand (BitVec.ofNat 3 N), 0x40] ++ List.replicate s.reg.W 0x00)

/-- SET_TEXT on an Open session plans `1 + len(text)` frames: the reset to page 0, then for each byte a reset to the page
that the newlines so far give, wrapping at `P`, or the byte's glyph (R94, R20). That State.textPage holds the last page
after the accept step is the model's choice (log 15): R20 has the counter exist only during planning. -/
def Obligations.TextPlansOneFramePerByte : Prop :=
  ∀ (s : State) (c : Nat) (req : Request) (rest : List (Nat × Request)) (text : List Byte),
    s.head c req rest → s.reg.sess = .opened → (s.reg.H = 32 ∨ s.reg.H = 64) →
    (s.par.highCode = .reject → ∀ b ∈ text, b.toNat < 0x80) →
    ∃ frames,
      exec (.setText text) s =
        .next { started s c req rest frames s.reg.addr .keep with
                textPage := BitVec.ofNat 3 (text.count 0x0A % (s.reg.H / 8)) } ∧
      frames.length = 1 + text.length ∧
      frames[0]? = some (resetFrame 0) ∧
      ∀ (i : Nat) (b : Byte), text[i]? = some b →
        frames[i + 1]? = some
          (if b = 0x0A then resetFrame (BitVec.ofNat 3 ((text.take (i + 1)).count 0x0A % (s.reg.H / 8)))
           else if b.toNat < 0x80 then 0x40 :: ((s.reg.font.drop (8 * b.toNat)).take 8)
           else 0x40 :: List.replicate 8 0x00)

/-- SET_TEXT under `Reject` with a byte of 0x80 or above answers OutOfRangeError with the first such index, before any frame (R118). -/
def Obligations.TextRejectsHighCodes : Prop :=
  ∀ (s : State) (c : Nat) (req : Request) (rest : List (Nat × Request)) (low : List Byte) (b : Byte) (text : List Byte),
    s.head c req rest → s.reg.sess = .opened → s.par.highCode = .reject →
    (∀ a ∈ low, a.toNat < 0x80) → 0x80 ≤ b.toNat →
    exec (.setText (low ++ b :: text)) s =
      .next (turnedAway s c rest .outOfRange (.textIndex low.length))

/-- SET_BITMAP on an Open session with valid dimensions plans, for each page run, a reset to its page and the run;
with any other dimensions or length it answers OutOfRangeError and plans nothing (R96). -/
def Obligations.BitmapPlansPageRuns : Prop :=
  ∀ (s : State) (c : Nat) (req : Request) (rest : List (Nat × Request)) (bytes : List Byte) (w h : Int),
    s.head c req rest → s.reg.sess = .opened →
    let fits := 1 ≤ w ∧ w ≤ s.reg.W ∧ 8 ≤ h ∧ h ≤ s.reg.H ∧ h % 8 = 0 ∧ (bytes.length : Int) = w * (h / 8)
    (fits → ∃ frames,
      exec (.setBitmap bytes w h) s = .next (started s c req rest frames s.reg.addr .keep) ∧
      frames.length = 2 * (h / 8).toNat ∧
      ∀ p, p < (h / 8).toNat →
        frames[2 * p]? = some (resetFrame (BitVec.ofNat 3 p)) ∧
        ∃ r, frames[2 * p + 1]? = some (0x40 :: r) ∧ r.length = w.toNat ∧
          ∀ x, x < w.toNat → r[x]? = bytes[p * w.toNat + x]?) ∧
    (¬fits → exec (.setBitmap bytes w h) s =
      .next (turnedAway s c rest .outOfRange (.bitmap w h bytes.length)))

/-- SET_QRCODE is SET_BITMAP with the geometry that QR_GEOMETRY gives, and OutOfRangeError where it gives none;
by default a payload of `W * P` bytes is the whole display and no other length has a geometry (R97, R98). With the default it
completes on every payload of `W * P` bytes: each page's reset and run. -/
def Obligations.QrcodePlansItsGeometry : Prop :=
  ∀ (s : State) (c : Nat) (req : Request) (rest : List (Nat × Request)) (bytes : List Byte),
    s.head c req rest → s.reg.sess = .opened →
    (∀ w h, qrGeometry s.par.qr bytes s.reg.W s.reg.H = some (w, h) →
      exec (.setQrcode bytes) s = exec (.setBitmap bytes w h) s) ∧
    (qrGeometry s.par.qr bytes s.reg.W s.reg.H = none →
      exec (.setQrcode bytes) s = .next (turnedAway s c rest .outOfRange (.payload bytes.length))) ∧
    (s.par.qr = .fullScreen →
      qrGeometry s.par.qr bytes s.reg.W s.reg.H =
        if bytes.length = s.reg.W * (s.reg.H / 8) then some ((s.reg.W : Int), (s.reg.H : Int)) else none) ∧
    (legalSize s.reg.W s.reg.H → s.par.qr = .fullScreen → bytes.length = s.reg.W * (s.reg.H / 8) →
      ∃ frames, exec (.setQrcode bytes) s = .next (started s c req rest frames s.reg.addr .keep) ∧
        frames.length = 2 * (s.reg.H / 8) ∧
        ∀ p, p < s.reg.H / 8 →
          frames[2 * p]? = some (resetFrame (BitVec.ofNat 3 p)) ∧
          frames[2 * p + 1]? = some (0x40 :: ((bytes.drop (p * s.reg.W)).take s.reg.W)))

/-- SET_CONTRAST on an Open session plans the one contrast frame for 0..255 and answers OutOfRangeError for any other
integer, with no frame (R99); SET_INVERSION plans the one frame of the mode its operand names (R100). -/
def Obligations.ContrastAndInversionPlanOneFrame : Prop :=
  ∀ (s : State) (c : Nat) (req : Request) (rest : List (Nat × Request)),
    s.head c req rest → s.reg.sess = .opened →
    (∀ v : Int, 0 ≤ v → v ≤ 255 →
      exec (.setContrast v) s =
        .next (started s c req rest [[0x00, 0x81, BitVec.ofNat 8 v.toNat]] s.reg.addr .keep)) ∧
    (∀ v : Int, v < 0 ∨ 255 < v → exec (.setContrast v) s = .next (turnedAway s c rest .outOfRange (.value v))) ∧
    ∀ b : Bool, exec (.setInversion b) s =
      .next (started s c req rest [[0x80, if b then 0xA7 else 0xA6]] s.reg.addr .keep)

/-- A reserved opcode is answered UnsupportedRequestError in every session state, with no bus write and no other change (R65, R74).
That the info names the opcode is the model's choice (log 26), and so is the answer for an `op` of 0x00 to 0x08, which no
message and no record of R65 holds (log 21). -/
def Obligations.ReservedOpcodesAnswered : Prop :=
  ∀ (s : State) (c : Nat) (req : Request) (rest : List (Nat × Request)), s.head c req rest →
    exec .reserved00 s = .next (turnedAway s c rest .unsupported (.opcode 0x00)) ∧
    ∀ op : Byte, exec (.reserved09FF op) s = .next (turnedAway s c rest .unsupported (.opcode op))

/-- The state gate: what a request that the session state does not admit is answered, whatever its operands: ClosedError on
a Closed session, and on an Idle one for every request but OPEN (R105, R119); UnsupportedRequestError for OPEN on an Open one
(R105, R120). No bus write is made and only the queue and the caller's slot change (R103). That the info is empty is the
model's choice (log 26). -/
def Obligations.GateRejectsByState : Prop :=
  ∀ (s : State) (c : Nat) (req : Request) (rest : List (Nat × Request)) (i : Instr),
    s.head c req rest → assigned i = true →
    (s.reg.sess = .closed → exec i s = .next (turnedAway s c rest .closed .nothing)) ∧
    (s.reg.sess = .idle → isOpening i = false → exec i s = .next (turnedAway s c rest .closed .nothing)) ∧
    (s.reg.sess = .opened → isOpening i = true → exec i s = .next (turnedAway s c rest .unsupported .nothing))

/-- The frame of the requests' accept step, in every form: no session register, parameter, controller register, display
byte or input changes; the queue loses its head; at most one response is added and no slot but the head's changes; the
text page counter changes only for SET_TEXT. -/
def Obligations.RequestsChangeOnlyTheSequencer : Prop :=
  ∀ (i : Instr) (s t : State), i.port = .request → exec i s = .next t →
    ∃ c req, s.queue = (c, req) :: t.queue ∧
      t.reg = s.reg ∧ t.par = s.par ∧ t.ctl = s.ctl ∧ t.turns = s.turns ∧ t.answers = s.answers ∧ t.draws = s.draws ∧
      (∀ a, Memory.read t.ctl.ram a = Memory.read s.ctl.ram a) ∧
      ((∀ text, i ≠ .setText text) → t.textPage = s.textPage) ∧
      (∀ d, d ≠ c → t.resp d = s.resp d) ∧
      ((∃ op, t.inflight = some op ∧ op.caller = c ∧ op.req = req ∧ t.seq = 0 ∧ t.trace = s.trace ∧
          t.waiting = s.waiting) ∨
        (t.inflight = none ∧ t.seq = s.seq ∧ t.textPage = s.textPage ∧ t.resp c = .none ∧
          ∃ k info, t.trace = s.trace ++ [.respond c (.err k info)]))

/-! ## Control bytes and controller commands -/

/-- The three control prefixes always complete: each sets how the bytes after it are read (R53; the reading of bits 7 and 6 is R47's). -/
def Obligations.PrefixesSetThePosition : Prop :=
  ∀ s : State,
    exec .prefixSingleCommand s = .next { s with ctl := { s.ctl with rxPos := .singleCommand } } ∧
    exec .prefixCommandStream s = .next { s with ctl := { s.ctl with rxPos := .commandStream } } ∧
    exec .prefixDataStream s = .next { s with ctl := { s.ctl with rxPos := .dataStream } }

/-- The settings that move nothing always complete and latch their shadow value (R48). That the shadow of the two
orientation commands is the command byte is the model's choice (log 13). -/
def Obligations.SettingsLatchTheirShadow : Prop :=
  ∀ (s : State) (v : Byte),
    exec (.setClockDiv v) s = .next { s with ctl := { s.ctl with clockDiv := v } } ∧
    exec (.setMuxRatio v) s = .next { s with ctl := { s.ctl with muxRatio := v } } ∧
    exec (.setDisplayOffset v) s = .next { s with ctl := { s.ctl with offset := v } } ∧
    exec (.chargePump v) s = .next { s with ctl := { s.ctl with chargePump := v } } ∧
    exec (.setComPins v) s = .next { s with ctl := { s.ctl with comPins := v } } ∧
    exec (.setPrecharge v) s = .next { s with ctl := { s.ctl with precharge := v } } ∧
    exec (.setVcomh v) s = .next { s with ctl := { s.ctl with vcomh := v } } ∧
    (∀ line : BitVec 6, ∃ b : Byte, b.toNat = line.toNat ∧
      exec (.setStartLine line) s = .next { s with ctl := { s.ctl with startLine := b } }) ∧
    (∀ r : Bool, exec (.segRemap r) s =
      .next { s with ctl := { s.ctl with segRemap := if r then 0xA1 else 0xA0 } }) ∧
    (∀ d : Bool, exec (.comScanDir d) s =
      .next { s with ctl := { s.ctl with comScan := if d then 0xC8 else 0xC0 } })

/-- SET_PAGE sets the page pointer, SET_COL_LO the low four and SET_COL_HI the high three bits of the column pointer,
each leaving the other bits; all three always complete (R48). -/
def Obligations.PointerCommandsMoveTheCursor : Prop :=
  ∀ s : State,
    (∀ n : Page, exec (.setPage n) s = .next { s with ctl := { s.ctl with pagePtr := n } }) ∧
    (∀ n : BitVec 4, ∃ x : Column, x.toNat = 16 * (s.ctl.colPtr.toNat / 16) + n.toNat ∧
      exec (.setColLo n) s = .next { s with ctl := { s.ctl with colPtr := x } }) ∧
    (∀ n : BitVec 3, ∃ x : Column, x.toNat = 16 * n.toNat + s.ctl.colPtr.toNat % 16 ∧
      exec (.setColHi n) s = .next { s with ctl := { s.ctl with colPtr := x } })

/-- The display mode commands always complete with their effect; SET_MEM_MODE does for modes 0, 1 and 2, and the observer
refuses mode 3 (R48). -/
def Obligations.DisplayModeCommands : Prop :=
  ∀ s : State,
    (∀ v : Byte, exec (.setContrastCmd v) s = .next { s with ctl := { s.ctl with contrast := v } }) ∧
    exec .normalDisplay s = .next { s with ctl := { s.ctl with inverted := false } } ∧
    exec .invertDisplay s = .next { s with ctl := { s.ctl with inverted := true } } ∧
    exec .displayOff s = .next { s with ctl := { s.ctl with on := false } } ∧
    exec .displayOn s = .next { s with ctl := { s.ctl with on := true } } ∧
    (∀ m : Byte, m.toNat % 4 = 0 → exec (.setMemMode m) s = .next { s with ctl := { s.ctl with amode := .horizontal } }) ∧
    (∀ m : Byte, m.toNat % 4 = 1 → exec (.setMemMode m) s = .next { s with ctl := { s.ctl with amode := .vertical } }) ∧
    (∀ m : Byte, m.toNat % 4 = 2 → exec (.setMemMode m) s = .next { s with ctl := { s.ctl with amode := .page } }) ∧
    (∀ m : Byte, m.toNat % 4 = 3 → exec (.setMemMode m) s = .refused .observerModeUndefined)

/-- The frame of the control bytes and the controller commands: nothing of the block changes, no display byte, no column
or page range, and no controller register but the command's own. -/
def Obligations.ControllerRowsChangeOnlyTheirRegister : Prop :=
  ∀ (i : Instr) (s t : State), i.port ≠ .request → exec i s = .next t →
    t = { s with ctl := t.ctl } ∧
    (∀ a, Memory.read t.ctl.ram a = Memory.read s.ctl.ram a) ∧
    t.ctl.rx = s.ctl.rx ∧ t.ctl.entire = s.ctl.entire ∧
    t.ctl.colStart = s.ctl.colStart ∧ t.ctl.colEnd = s.ctl.colEnd ∧
    t.ctl.pageStart = s.ctl.pageStart ∧ t.ctl.pageEnd = s.ctl.pageEnd ∧
    (i.port = .command → t.ctl.rxPos = s.ctl.rxPos) ∧
    ((∀ n, i ≠ .setPage n) → t.ctl.pagePtr = s.ctl.pagePtr) ∧
    ((∀ n, i ≠ .setColLo n) → (∀ n, i ≠ .setColHi n) → t.ctl.colPtr = s.ctl.colPtr) ∧
    ((∀ m, i ≠ .setMemMode m) → t.ctl.amode = s.ctl.amode) ∧
    ((∀ v, i ≠ .setContrastCmd v) → t.ctl.contrast = s.ctl.contrast) ∧
    (i ≠ .normalDisplay → i ≠ .invertDisplay → t.ctl.inverted = s.ctl.inverted) ∧
    (i ≠ .displayOff → i ≠ .displayOn → t.ctl.on = s.ctl.on) ∧
    ((∀ v, i ≠ .setMuxRatio v) → t.ctl.muxRatio = s.ctl.muxRatio) ∧
    ((∀ v, i ≠ .setDisplayOffset v) → t.ctl.offset = s.ctl.offset) ∧
    ((∀ v, i ≠ .setClockDiv v) → t.ctl.clockDiv = s.ctl.clockDiv) ∧
    ((∀ v, i ≠ .chargePump v) → t.ctl.chargePump = s.ctl.chargePump) ∧
    ((∀ v, i ≠ .setComPins v) → t.ctl.comPins = s.ctl.comPins) ∧
    ((∀ v, i ≠ .setPrecharge v) → t.ctl.precharge = s.ctl.precharge) ∧
    ((∀ v, i ≠ .setVcomh v) → t.ctl.vcomh = s.ctl.vcomh) ∧
    ((∀ r, i ≠ .segRemap r) → t.ctl.segRemap = s.ctl.segRemap) ∧
    ((∀ d, i ≠ .comScanDir d) → t.ctl.comScan = s.ctl.comScan) ∧
    ((∀ l, i ≠ .setStartLine l) → t.ctl.startLine = s.ctl.startLine)

/-! ## Steps -/

/-- A step runs the decoded request: with nothing for the controller to take in and nothing in flight, the machine's own step
at a queue whose head decodes to `i` is `exec i`, whatever turns are listed; so is a step with no turn due, and a run turn
(R103). The meaning itself takes the head off the queue. A request decodes to `i` in two forms and no other: as a serial message
that decodes to `i`, and as the record `i` itself (R104). That a record of a controller row does not decode is the model's
reading; a reserved opcode decodes to its row, whose meaning is R104's failure (log 21). -/
def Obligations.StepRunsTheRequest : Prop :=
  (∀ (s : State) (c : Nat) (req : Request) (rest : List (Nat × Request)) (i : Instr),
    s.engineNext → s.head c req rest → decodeRequest req = .ok i →
    internalStep s = exec i s ∧
    (s.turns = [] → step s = exec i s) ∧
    (∀ ts, s.turns = .run :: ts → step s = exec i { s with turns := ts })) ∧
  (∀ (req : Request) (i : Instr),
    decodeRequest req = .ok i ↔
      (∃ msg, req = .serial msg ∧ decodeMessage msg = .ok i) ∨ (req = .record i ∧ i.port = .request))

/-- A step runs the control byte or command at the front of a frame, past its bytes (R47): a single command leads back to
a control byte. The machine's own step does so whatever turns are listed, and it is the step when none is. -/
def Obligations.StepRunsTheFrameByte : Prop :=
  ∀ (s : State) (b : Byte) (bs : List Byte) (i : Instr),
    (s.receiving .control (b :: bs) → decodeControl b = .ok i →
      internalStep s = exec i { s with ctl := { s.ctl with rx := bs } }) ∧
    (s.receiving .singleCommand (b :: bs) → ∀ rest, decodeCommand b [] = .instr i rest →
      internalStep s = exec i { s with ctl := { s.ctl with rx := bs, rxPos := .control } }) ∧
    (s.receiving .commandStream (b :: bs) → ∀ rest, decodeCommand b bs = .instr i rest →
      internalStep s = exec i { s with ctl := { s.ctl with rx := rest } }) ∧
    (s.turns = [] → step s = internalStep s)

/-- A malformed message and a message with a reserved opcode are answered UnsupportedRequestError in every session state,
with no bus write and no change but the request's own leaving of the queue and its slot (R74, R103). That a message of no
bytes is one of the malformed is the model's choice (log 30). -/
def Obligations.MalformedMessagesAnswered : Prop :=
  ∀ (s : State) (c : Nat) (msg : List Byte) (rest : List (Nat × Request)),
    s.engineNext → s.head c (.serial msg) rest →
    (∀ r, decodeMessage msg = .reject r → ∃ info, internalStep s = .next (turnedAway s c rest .unsupported info)) ∧
    (∀ op tail, msg = op :: tail → (op = 0x00 ∨ 9 ≤ op.toNat) →
      ∃ info, internalStep s = .next (turnedAway s c rest .unsupported info))

/-- What a turn of the list does. With none listed the step is the machine's own, and a run turn is that too, past the turn
(R39). A submit turn of an idle caller appends its pair to the queue and makes its slot wait, in every session state; a
caller whose slot is waiting holds, and the machine goes on with its own step (R102, R18). The machine's own step does not
depend on the turns that are listed, and leaves them. That the interleaving is a list of turns is the model's form (log 12). -/
def Obligations.TurnsRunOrSubmit : Prop :=
  (∀ s : State, s.turns = [] → step s = internalStep s) ∧
  (∀ (s : State) (ts : List Turn), s.turns = .run :: ts → step s = internalStep { s with turns := ts }) ∧
  (∀ (s : State) (c : Nat) (req : Request) (ts : List Turn),
    s.turns = .submit c req :: ts → c < s.par.nCallers →
    (s.resp c = .none → ∃ w, step s = .next { s with turns := ts, queue := s.queue ++ [(c, req)], waiting := w } ∧
      ∀ d, d ∈ w ↔ d = c ∨ d ∈ s.waiting) ∧
    (s.resp c = .waiting → step s = internalStep s)) ∧
  (∀ (s : State) (ts : List Turn),
    match internalStep s with
    | .next t => t.turns = s.turns ∧ internalStep { s with turns := ts } = .next { t with turns := ts }
    | .fault r => internalStep { s with turns := ts } = .fault r
    | .refused r => internalStep { s with turns := ts } = .refused r)

/-- An emit step that the transport answers `ok`, whatever turns are listed: the frame at the index goes to the operation's
address, the index advances by exactly one, and the panel at that address, whatever state it is in, takes in the whole frame
next; a panel at another address, and any panel when the frame is empty, is unchanged; nothing else of the block changes
(R108, R50). -/
def Obligations.EmitOkAdvancesByOne : Prop :=
  ∀ (s : State) (op : Operation) (f : Frame) (rest : List Answer),
    s.engineNext → s.inflight = some op → op.frames[s.seq]? = some f → s.answers = .ok :: rest →
    ∃ t, internalStep s = .next t ∧
      t.seq = s.seq + 1 ∧ t.trace = s.trace ++ [.write op.caller op.addr f .ok] ∧ t.answers = rest ∧
      t.inflight = s.inflight ∧ t.reg = s.reg ∧ t.queue = s.queue ∧ t.waiting = s.waiting ∧ t.par = s.par ∧
      t.textPage = s.textPage ∧ t.turns = s.turns ∧
      (op.addr ≠ s.par.panelAddr ∨ f = [] → t.ctl = s.ctl) ∧
      (op.addr = s.par.panelAddr → f ≠ [] → t.ctl = { s.ctl with rx := f, rxPos := .control })

/-- An emit step that the transport answers `fail`, whatever turns are listed: the caller is answered TransportError with the
reason, nothing is in flight, no session register changes, and the panel at that address takes in the part of the frame that
arrived; where nothing arrived the panel is unchanged (R108, R117, R122, R50). -/
def Obligations.EmitFailEndsTheOperation : Prop :=
  ∀ (s : State) (op : Operation) (f : Frame) (reason : TransportReason) (k : Nat) (rest : List Answer),
    s.engineNext → s.inflight = some op → op.frames[s.seq]? = some f → s.answers = .fail reason k :: rest →
    ∃ t, internalStep s = .next t ∧
      t.trace = s.trace ++ [.write op.caller op.addr f (.fail reason k),
        .respond op.caller (.err .transport (.reason reason))] ∧
      t.inflight = none ∧ t.reg = s.reg ∧ t.queue = s.queue ∧ t.answers = rest ∧ t.par = s.par ∧
      t.resp op.caller = .none ∧ (∀ d, d ≠ op.caller → t.resp d = s.resp d) ∧
      (op.addr ≠ s.par.panelAddr ∨ k = 0 ∨ f = [] → t.ctl = s.ctl) ∧
      (op.addr = s.par.panelAddr → 0 < k → f ≠ [] → t.ctl = { s.ctl with rx := f.take k, rxPos := .control })

/-- A complete step, whatever turns are listed, applies the commit and answers Ok (R109): OPEN's latches the configuration and
takes the bus (R111), CLOSE's closes the session and releases the bus (R112), and no other request has one. -/
def Obligations.CompleteAppliesTheCommit : Prop :=
  ∀ (s : State) (op : Operation),
    s.engineNext → s.inflight = some op → s.seq = op.frames.length →
    ∃ t, internalStep s = .next t ∧
      t.reg = applyCommit s.reg op.commit ∧
      (∀ a W H m font, op.commit = .opened a W H m font →
        t.reg = { sess := .opened, addr := a, W := W, H := H, mode := m, bus := .held, font := font }) ∧
      (op.commit = .closed → t.reg = { s.reg with sess := .closed, bus := .released }) ∧
      (op.commit = .keep → t.reg = s.reg) ∧
      t.trace = s.trace ++ [.respond op.caller .ok] ∧
      t.inflight = none ∧ t.queue = s.queue ∧ t.ctl = s.ctl ∧ t.answers = s.answers ∧ t.par = s.par ∧
      t.resp op.caller = .none ∧ (∀ d, d ≠ op.caller → t.resp d = s.resp d)

/-- While the transport has not answered, the engine holds; with nothing to do, the machine changes nothing (R107, R135),
whatever turns are listed. That a held or idle step is a step to the same state, and that a call that is out is no event of the
trace yet, is the model's choice (logs 9, 31). -/
def Obligations.HeldAndIdleStepsChangeNothing : Prop :=
  (∀ (s : State) (op : Operation) (f : Frame),
    s.engineNext → s.inflight = some op → op.frames[s.seq]? = some f → s.answers = [] →
    internalStep s = .next s ∧ (s.turns = [] → step s = .next s)) ∧
  (∀ s : State, s.engineNext → s.inflight = none → s.queue = [] →
    internalStep s = .next s ∧ (s.turns = [] → step s = .next s))

/-- A block reset: the block's elements with reset values take them, the operation and the queue go without a response, no
frame follows, and the parameters and the inputs stay (R134). If a transport call was out, the trace records its frame as
abandoned, and the part of it that arrived is what the panel at its address takes in next (log 16); with no call out, the
panel and the trace of writes stay as they are. For the bus see log 32. -/
def Obligations.BlockResetAbandonsEverything : Prop :=
  ∀ (s : State) (cut : Option Nat) (ts : List Turn), s.turns = .blockReset cut :: ts →
    ∃ t, step s = .next t ∧
      t.reg.sess = .idle ∧ t.reg.bus = .released ∧ t.queue = [] ∧ (∀ c, t.resp c = .none) ∧
      t.inflight = none ∧ t.seq = 0 ∧ t.par = s.par ∧ t.answers = s.answers ∧ t.turns = ts ∧
      (cut = none ∨ s.outstanding = none → t.ctl = s.ctl ∧ t.trace = s.trace ++ [.blockReset]) ∧
      (∀ k op f, cut = some k → s.outstanding = some (op, f) →
        t.trace = s.trace ++ [.abandoned op.caller op.addr f, .blockReset] ∧
        (op.addr ≠ s.par.panelAddr ∨ k = 0 ∨ f = [] → t.ctl = s.ctl) ∧
        (op.addr = s.par.panelAddr → 0 < k → f ≠ [] → t.ctl = { s.ctl with rx := f.take k, rxPos := .control })) ∧
      (∀ op f, s.outstanding = some (op, f) ↔ s.inflight = some op ∧ s.ctl.rx = [] ∧ op.frames[s.seq]? = some f)

/-- A panel reset turn puts the controller into the state of R46 and leaves the block alone;
the display is then off, so every pixel is shown dark. A pixel is shown as `on ∧ (pixel ⊕ inverted)` (R52). That a byte of any
value is one that is not known is the model's choice (log 4). So are the turn itself, and that it drops what the controller has
not yet taken in of a frame (log 23): R136 leaves the panel's reset to the platform. -/
def Obligations.PanelResetDarkensThePicture : Prop :=
  (∀ (s : State) (ts : List Turn), s.turns = .panelReset :: ts →
    ∃ c : Controller, step s = .next { s with turns := ts, ctl := c } ∧
      c.amode = .page ∧ c.colStart = 0 ∧ c.colEnd.toNat = 127 ∧ c.pageStart = 0 ∧ c.pageEnd.toNat = 7 ∧
      c.colPtr = 0 ∧ c.pagePtr = 0 ∧ c.contrast = 0x7F ∧ c.inverted = false ∧ c.on = false ∧ c.rx = [] ∧
      (∀ a, Memory.read c.ram a = none) ∧ ∀ x y, c.shown x y = some false) ∧
  (∀ (c : Controller) (x y : Nat),
    (c.on = false → c.shown x y = some false) ∧
    (∀ b, c.on = true → Memory.read c.ram (128 * (y / 8) + x) = some b →
      c.shown x y = some (b.getLsbD (y % 8) != c.inverted)) ∧
    (c.on = true → Memory.read c.ram (128 * (y / 8) + x) = none → c.shown x y = none))

/-- A command string that ends inside a command, a one-parameter or a two-parameter one: every display byte, every register
that the cut command does not write and the whole block stay as the commands before it left them; the registers that it writes
take free bytes, so nothing is known of them. That they are free is the model's choice (log 14): R50 applies the bytes that
arrived, and no rule says what a command without its parameter does (R140). -/
def Obligations.CutCommandFreesItsRegisters : Prop :=
  ∀ (s : State) (b : Byte) (bs : List Byte),
    s.receiving .commandStream (b :: bs) → decodeCommand b bs = .reject (.missingParameter b) →
    ∃ c : Controller, internalStep s = .next { s with ctl := { c with rx := [] }, draws := s.draws + 3 } ∧
      c = s.ctl.cutShort s.draws b ∧
      c.ram = s.ctl.ram ∧ c.rxPos = s.ctl.rxPos ∧ c.inverted = s.ctl.inverted ∧ c.on = s.ctl.on ∧
      c.segRemap = s.ctl.segRemap ∧ c.comScan = s.ctl.comScan ∧ c.startLine = s.ctl.startLine ∧ c.entire = s.ctl.entire ∧
      (b ≠ 0x20 → c.amode = s.ctl.amode) ∧
      (b ≠ 0x21 → c.colStart = s.ctl.colStart ∧ c.colEnd = s.ctl.colEnd ∧ c.colPtr = s.ctl.colPtr) ∧
      (b ≠ 0x22 → c.pageStart = s.ctl.pageStart ∧ c.pageEnd = s.ctl.pageEnd ∧ c.pagePtr = s.ctl.pagePtr) ∧
      c.contrast = (if b = 0x81 then Config.freeByte s.draws else s.ctl.contrast) ∧
      c.chargePump = (if b = 0x8D then Config.freeByte s.draws else s.ctl.chargePump) ∧
      c.muxRatio = (if b = 0xA8 then Config.freeByte s.draws else s.ctl.muxRatio) ∧
      c.offset = (if b = 0xD3 then Config.freeByte s.draws else s.ctl.offset) ∧
      c.clockDiv = (if b = 0xD5 then Config.freeByte s.draws else s.ctl.clockDiv) ∧
      c.precharge = (if b = 0xD9 then Config.freeByte s.draws else s.ctl.precharge) ∧
      c.comPins = (if b = 0xDA then Config.freeByte s.draws else s.ctl.comPins) ∧
      c.vcomh = (if b = 0xDB then Config.freeByte s.draws else s.ctl.vcomh)

/-- What the observer does with the bytes that are no row of the table: 0x21 and 0x22 set a range and its pointer, 0xA4 and
0xA5 latch their shadow (R48); any other control byte is read by its bits 7 and 6, a single data byte is written, and the bytes
of a data stream are written in their order (R47).
It refuses a frame with a byte in a command position that R48 does not list (R47), and a command that needs a parameter after
a single-command prefix. The shadow of 0xA4 and 0xA5, and the reading of that last case, are the model's (logs 13, 22). -/
def Obligations.ObserverTakesTheOtherBytes : Prop :=
  (∀ (s : State) (a b : Byte) (bs : List Byte), s.receiving .commandStream (0x21 :: a :: b :: bs) →
    ∃ x y : Column, x.toNat = a.toNat % 128 ∧ y.toNat = b.toNat % 128 ∧
      internalStep s = .next { s with ctl := { s.ctl with rx := bs, colStart := x, colEnd := y, colPtr := x } }) ∧
  (∀ (s : State) (a b : Byte) (bs : List Byte), s.receiving .commandStream (0x22 :: a :: b :: bs) →
    ∃ x y : Page, x.toNat = a.toNat % 8 ∧ y.toNat = b.toNat % 8 ∧
      internalStep s = .next { s with ctl := { s.ctl with rx := bs, pageStart := x, pageEnd := y, pagePtr := x } }) ∧
  (∀ (s : State) (b : Byte) (bs : List Byte), b = 0xA4 ∨ b = 0xA5 →
    (s.receiving .commandStream (b :: bs) → internalStep s = .next { s with ctl := { s.ctl with rx := bs, entire := b } }) ∧
    (s.receiving .singleCommand (b :: bs) →
      internalStep s = .next { s with ctl := { s.ctl with rx := bs, rxPos := .control, entire := b } })) ∧
  (∀ (s : State) (b : Byte) (bs : List Byte), s.receiving .control (b :: bs) → b ≠ 0x80 → b ≠ 0x00 → b ≠ 0x40 →
    internalStep s = .next { s with ctl := { s.ctl with
      rx := bs
      rxPos :=
        if b.toNat < 64 then .commandStream else if b.toNat < 128 then .dataStream
        else if b.toNat < 192 then .singleCommand else .singleData } }) ∧
  (∀ (s : State) (b : Byte) (bs : List Byte), s.receiving .singleData (b :: bs) →
    internalStep s = .next { s with ctl := Controller.data { s.ctl with rx := bs, rxPos := .control } b }) ∧
  (∀ (s : State) (b : Byte) (bs : List Byte), s.receiving .dataStream (b :: bs) →
    internalStep s = .next { s with ctl := (b :: bs).foldl Controller.data { s.ctl with rx := [] } }) ∧
  (∀ (s : State) (b : Byte) (bs : List Byte), unlisted b →
    s.receiving .commandStream (b :: bs) ∨ s.receiving .singleCommand (b :: bs) →
    internalStep s = .refused (.observerRefuses (.unknownCommand b))) ∧
  (∀ (s : State) (b : Byte) (bs : List Byte), s.receiving .singleCommand (b :: bs) →
    decodeCommand b [] = .reject (.missingParameter b) → internalStep s = .refused (.observerRefuses (.missingParameter b)))

/-! ## Reset -/

/-- Right after reset: Idle, the bus released, nothing queued, in flight or emitted; the controller as R46 has it (R134, R46).
That the panel is reset too at State.reset is the model's choice (log 23): R136 leaves its reset to the platform. So is that a
display byte of any value is one whose value is not known (log 4). R13 and R134 have the bus released at reset, where 93 I15
lists it among the unspecified: the model follows the rules (log 32). -/
def Obligations.ResetValues : Prop :=
  State.reset.reg.sess = .idle ∧ State.reset.reg.bus = .released ∧ State.reset.queue = [] ∧
  (∀ c, State.reset.resp c = .none) ∧ State.reset.inflight = none ∧ State.reset.seq = 0 ∧ State.reset.trace = [] ∧
  State.reset.ctl.amode = .page ∧ State.reset.ctl.colStart = 0 ∧ State.reset.ctl.colEnd.toNat = 127 ∧
  State.reset.ctl.pageStart = 0 ∧ State.reset.ctl.pageEnd.toNat = 7 ∧ State.reset.ctl.colPtr = 0 ∧
  State.reset.ctl.pagePtr = 0 ∧ State.reset.ctl.contrast = 0x7F ∧ State.reset.ctl.inverted = false ∧
  State.reset.ctl.on = false ∧ (∀ a, Memory.read State.reset.ctl.ram a = none)

/-- The invariant holds right after reset. -/
def Obligations.ResetSatisfiesTheInvariant : Prop := State.reset.Inv ∧ State.reset.traceOk

/-! ## Whole-machine rules -/

/-- Every step keeps the invariant: parameters, session, operation in flight, callers, display memory, controller input. -/
def Obligations.StepKeepsTheInvariant : Prop :=
  ∀ s t : State, s.Inv → step s = .next t → t.Inv

/-- From a state that satisfies the invariant the machine always goes on: no request, no error, no answer of the transport,
no frame and no reset ends it (R123: "No error ends the block's operation"). That a held step, which the transport has not
answered, and an idle step go on too, each to the same state, is the model's choice (log 9). -/
def Obligations.MachineAlwaysGoesOn : Prop := ∀ s : State, s.Inv → goesOn s

/-- Every frame that a step puts on the bus is an INIT frame, or one of the other kinds of R58 within the open session's
width and page count. That no other control byte, no other command and no page past the last is ever emitted (R75) follows from
it. The same holds of the frame of a call that is out and not answered, which the trace does not hold yet (log 31). -/
def Obligations.EveryFrameIsListed : Prop :=
  (∀ s t : State, s.Inv → step s = .next t →
    ∀ e ∈ t.trace.drop s.trace.length, ∀ c a f r, (e = .write c a f r ∨ e = .abandoned c a f) →
      (∃ H, (H = 32 ∨ H = 64) ∧ f = initFrame s.par.tuning H) ∨
      (legalSize s.reg.W s.reg.H ∧ listedFrame s.par.tuning s.reg.W s.reg.pages f)) ∧
  (∀ s : State, s.Inv → ∀ op f, s.outstanding = some (op, f) →
    (∃ H, (H = 32 ∨ H = 64) ∧ f = initFrame s.par.tuning H) ∨
    (legalSize s.reg.W s.reg.H ∧ listedFrame s.par.tuning s.reg.W s.reg.pages f))

/-- While the bus handle is released, the only frame that a step emits, in a call that is answered or in one that a block reset
abandons, is the INIT frame of an OPEN in flight. R13 has no Emit
at all while the bus is released, and R111 takes the bus only in the commit after the INIT frame: that this one frame is the
exception to R13 is the model's reading (log 11). The frame of a call that is out and not answered, which the trace does not
hold yet (log 31), is that one too. -/
def Obligations.ReleasedBusEmitsOnlyInit : Prop :=
  (∀ s t : State, s.Inv → step s = .next t → s.reg.bus = .released →
    ∀ e ∈ t.trace.drop s.trace.length, ∀ c a f r, (e = .write c a f r ∨ e = .abandoned c a f) →
      ∃ op H, s.inflight = some op ∧ (H = 32 ∨ H = 64) ∧ f = initFrame s.par.tuning H ∧
        ∃ W m font, op.commit = .opened a W H m font) ∧
  (∀ s : State, s.Inv → s.reg.bus = .released → ∀ op f, s.outstanding = some (op, f) →
    ∃ H, (H = 32 ∨ H = 64) ∧ f = initFrame s.par.tuning H ∧ ∃ W m font, op.commit = .opened op.addr W H m font)

/-- No step changes a parameter, and only OPEN's completion, CLOSE's completion and a block reset change a session register
(R3, R7, R112, R134). The values that a reset leaves in the configuration registers are the model's choice (logs 1, 18). -/
def Obligations.SessionChangesOnlyByOpenCloseReset : Prop :=
  ∀ s t : State, s.Inv → step s = .next t →
    t.par = s.par ∧
    (t.reg = s.reg ∨
      (∃ op a W H m font, s.inflight = some op ∧ s.seq = op.frames.length ∧ op.commit = .opened a W H m font ∧
        s.reg.sess = .idle ∧
        t.reg = { sess := .opened, addr := a, W := W, H := H, mode := m, bus := .held, font := font }) ∨
      (∃ op, s.inflight = some op ∧ s.seq = op.frames.length ∧ op.commit = .closed ∧ s.reg.sess = .opened ∧
        t.reg = { s.reg with sess := .closed, bus := .released }) ∨
      (∃ cut ts, s.turns = .blockReset cut :: ts ∧ t.reg = Session.reset))

/-- The backend mode changes no output: with the other mode every step has the same outcome, but for the mode itself, and
OPEN plans the same frames to the same address in both modes (R113). -/
def Obligations.ModeChangesNoOutput : Prop :=
  (∀ (s : State) (m : Mode),
    match step s with
    | .next t => ∃ m', step (s.withMode m) = .next (t.withMode m')
    | .fault r => step (s.withMode m) = .fault r
    | .refused r => step (s.withMode m) = .refused r) ∧
  (∀ (t : InitTuning) (addr : Option Int) (w h : Int) (bus : Bool) (font : Option (List Byte)) (m : Mode),
    match planOpen t addr w h .software bus font, planOpen t addr w h m bus font with
    | .plan fs a _, .plan fs' a' _ => fs = fs' ∧ a = a'
    | .error k info, .error k' info' => k = k' ∧ info = info'
    | _, _ => False)

/-- The block does not depend on the controller: the engine's step has the same outcome for the block whatever the
controller holds (R21, R129; 20_memory.md section 6: "A model of the block must not depend on it"). -/
def Obligations.BlockIgnoresTheController : Prop :=
  ∀ (s : State) (c : Controller) (n : Nat),
    match engineStep s with
    | .next t => ∃ c' n', engineStep { s with ctl := c, draws := n } = .next { t with ctl := c', draws := n' }
    | .fault r => engineStep { s with ctl := c, draws := n } = .fault r
    | .refused r => engineStep { s with ctl := c, draws := n } = .refused r

/-- The frame index of an operation never moves backwards and never skips a frame: it moves by one, and only with a
write that the transport took (R6). -/
def Obligations.FrameIndexMovesByOne : Prop :=
  ∀ (s t : State) (op op' : Operation), step s = .next t → s.inflight = some op → t.inflight = some op' →
    op' = op ∧
    (t.seq = s.seq ∧ t.trace = s.trace ∨
      t.seq = s.seq + 1 ∧ ∃ f, op.frames[s.seq]? = some f ∧
        t.trace = s.trace ++ [.write op.caller op.addr f .ok])

/-- The queue is first in, first out: a step leaves it, takes its head, adds one pair at its tail, or (a block reset) empties it (R17, R39). -/
def Obligations.QueueIsFifo : Prop :=
  ∀ s t : State, step s = .next t →
    t.queue = s.queue ∨ (∃ q, s.queue = q :: t.queue) ∨
    (∃ c req ts, s.turns = .submit c req :: ts ∧ s.resp c = .none ∧ t.queue = s.queue ++ [(c, req)]) ∨
    (∃ cut ts, s.turns = .blockReset cut :: ts ∧ t.queue = [])

/-- The queue never holds more requests than there are callers, and a caller's slot waits exactly while one of its
requests is queued or in flight (R17, R18). -/
def Obligations.QueueDepthIsBounded : Prop :=
  ∀ s : State, s.Inv →
    s.queue.length ≤ s.par.nCallers ∧ s.callersInside.Nodup ∧
    ∀ c, s.resp c = .waiting ↔ c ∈ s.callersInside

/-- No operation's writes are split by another's: every step keeps the trace contiguous (R38). -/
def Obligations.OperationsNeverInterleave : Prop :=
  ∀ s t : State, s.traceOk → step s = .next t → t.traceOk

/-- An operation whose writes all succeed runs to its end: exactly its remaining frames reach the transport, in order, its
commit is applied and its caller is answered Ok (R37, R108, R109). -/
def Obligations.OperationRunsToCompletion : Prop :=
  ∀ (s : State) (op : Operation) (rest : List Answer),
    s.Inv → s.turns = [] → s.inflight = some op →
    s.answers = List.replicate (op.frames.length - s.seq) .ok ++ rest →
    ∃ k t, Host.Core.run core k s = .next t ∧
      t.inflight = none ∧ t.reg = applyCommit s.reg op.commit ∧ t.queue = s.queue ∧ t.answers = rest ∧
      writesOf t.trace = writesOf s.trace ++ (op.frames.drop s.seq).map (fun f => (op.addr, f)) ∧
      ∃ es, t.trace = es ++ [.respond op.caller .ok]

/-- An operation whose write fails after `n` more successful ones ends there: exactly those frames and the failing one
reach the transport, no register changes, and its caller is answered TransportError (R101, R108). -/
def Obligations.FailedWriteEndsTheOperation : Prop :=
  ∀ (s : State) (op : Operation) (n : Nat) (reason : TransportReason) (k : Nat) (rest : List Answer),
    s.Inv → s.turns = [] → s.inflight = some op → s.seq + n < op.frames.length →
    s.answers = List.replicate n .ok ++ .fail reason k :: rest →
    ∃ m t, Host.Core.run core m s = .next t ∧
      t.inflight = none ∧ t.reg = s.reg ∧ t.queue = s.queue ∧ t.answers = rest ∧
      writesOf t.trace = writesOf s.trace ++ ((op.frames.drop s.seq).take (n + 1)).map (fun f => (op.addr, f)) ∧
      ∃ es, t.trace = es ++ [.respond op.caller (.err .transport (.reason reason))]

/-- The request at the head of the queue is answered after finitely many steps, if the transport answers every write it
makes and the callers take no further turn (R110). -/
def Obligations.HeadOfQueueIsAnswered : Prop :=
  ∀ (s : State) (c : Nat) (req : Request) (rest : List (Nat × Request)),
    s.Inv → s.turns = [] → s.head c req rest →
    ∃ n, ∀ answers : List Answer, n ≤ answers.length →
      ∃ k t, Host.Core.run core k { s with answers := answers } = .next t ∧
        t.queue = rest ∧ t.inflight = none ∧ ∃ es r, t.trace = es ++ [.respond c r]

/-! ## The display, as the reference observer has it -/

/-- `Data(b)` (R49): the byte at the cursor, and no other, takes the value; the pointers advance as the addressing mode says,
with the wrap at each range's end, in all three modes; no other register changes. -/
def Obligations.DataWritesAndAdvances : Prop :=
  ∀ (c : Controller) (b : Byte),
    let d := c.data b
    (∀ a, Memory.read d.ram a =
      if a = 128 * c.pagePtr.toNat + c.colPtr.toNat then some b else Memory.read c.ram a) ∧
    d = { c with ram := d.ram, colPtr := d.colPtr, pagePtr := d.pagePtr } ∧
    (c.amode = .horizontal →
      (c.colPtr.toNat < c.colEnd.toNat → d.colPtr.toNat = c.colPtr.toNat + 1 ∧ d.pagePtr = c.pagePtr) ∧
      (c.colEnd.toNat ≤ c.colPtr.toNat → d.colPtr = c.colStart ∧
        (c.pagePtr.toNat < c.pageEnd.toNat → d.pagePtr.toNat = c.pagePtr.toNat + 1) ∧
        (c.pageEnd.toNat ≤ c.pagePtr.toNat → d.pagePtr = c.pageStart))) ∧
    (c.amode = .vertical →
      (c.pagePtr.toNat < c.pageEnd.toNat → d.pagePtr.toNat = c.pagePtr.toNat + 1 ∧ d.colPtr = c.colPtr) ∧
      (c.pageEnd.toNat ≤ c.pagePtr.toNat → d.pagePtr = c.pageStart ∧
        (c.colPtr.toNat < c.colEnd.toNat → d.colPtr.toNat = c.colPtr.toNat + 1) ∧
        (c.colEnd.toNat ≤ c.colPtr.toNat → d.colPtr = c.colStart))) ∧
    (c.amode = .page → d.pagePtr = c.pagePtr ∧
      (c.colPtr.toNat < c.colEnd.toNat → d.colPtr.toNat = c.colPtr.toNat + 1) ∧
      (c.colEnd.toNat ≤ c.colPtr.toNat → d.colPtr = c.colStart))

/-- A delivered RESET frame leaves the cursor at column 0 of its page (R89 in the observer of R47 and R48). -/
def Obligations.ResetFrameSetsTheCursor : Prop :=
  ∀ (s : State) (N : Page), s.turns = [] → s.receiving .control (resetFrame N) →
    Host.Core.run core 4 s =
      .next { s with ctl := { s.ctl with rx := [], rxPos := .commandStream, pagePtr := N, colPtr := 0 } }

/-- A delivered data frame writes its bytes one after the other, the first one first, from the cursor on, and a delivered
clear-page frame sets the page and then writes `W` zeros, whatever the column (R88, R90 in the observer of R47 to R49). Outside
vertical mode a run that does not pass the column end puts its byte `j` into the `j`-th column from the cursor (R30) and no
byte elsewhere. The cursor is then past the run or, where the run ends at the column end, at the column start. -/
def Obligations.DataFramesWriteFromTheCursor : Prop :=
  (∀ (s : State) (g : List Byte), s.turns = [] → s.receiving .control (dataFrame g) → g ≠ [] →
    Host.Core.run core 2 s =
      .next { s with ctl := g.foldl Controller.data { s.ctl with rx := [], rxPos := .dataStream } }) ∧
  (∀ (s : State) (W : Nat) (N : Page), s.turns = [] → s.receiving .control (clearPageFrame W N) → 1 ≤ W →
    Host.Core.run core 4 s =
      .next { s with
              ctl := (List.replicate W 0x00).foldl Controller.data
                { s.ctl with rx := [], rxPos := .dataStream, pagePtr := N } }) ∧
  (∀ (c : Controller) (g : List Byte), c.dataStream g = g.foldl Controller.data c) ∧
  (∀ (c : Controller) (g : List Byte), c.amode ≠ .vertical → g ≠ [] → c.colPtr.toNat + g.length ≤ c.colEnd.toNat + 1 →
    let d := g.foldl Controller.data c
    (∀ j, j < g.length → Memory.read d.ram (128 * c.pagePtr.toNat + (c.colPtr.toNat + j)) = g[j]?) ∧
    (∀ a, (∀ j, j < g.length → a ≠ 128 * c.pagePtr.toNat + (c.colPtr.toNat + j)) →
      Memory.read d.ram a = Memory.read c.ram a) ∧
    (c.colPtr.toNat + g.length ≤ c.colEnd.toNat →
      d.colPtr.toNat = c.colPtr.toNat + g.length ∧ d.pagePtr = c.pagePtr) ∧
    (c.colPtr.toNat + g.length = c.colEnd.toNat + 1 →
      d.colPtr = c.colStart ∧ d.pagePtr = if c.amode = .horizontal then c.nextPage else c.pagePtr))

/-- A delivered INIT frame leaves the controller on, not inverted, in horizontal mode, at the default contrast, with its
settings latched, and moves neither the cursor nor the ranges nor the display memory (R87 in the observer of R47 and R48).
That the shadow of the two orientation commands is the command byte is the model's choice (log 13). -/
def Obligations.InitFrameConfiguresTheController : Prop :=
  ∀ (s : State) (H : Nat), s.turns = [] → s.receiving .control (initFrame s.par.tuning H) → (H = 32 ∨ H = 64) →
    s.par.tuning.admissible = true →
    Host.Core.run core 16 s =
      .next { s with ctl :=
        { s.ctl with
          rx := [], rxPos := .commandStream, on := true, inverted := false, amode := .horizontal, contrast := 0x7F,
          clockDiv := s.par.tuning.clockDiv, muxRatio := BitVec.ofNat 8 (H - 1), offset := 0, startLine := 0,
          chargePump := 0x14, segRemap := s.par.tuning.segRemap, comScan := s.par.tuning.comScan,
          comPins := (if H = 32 then s.par.tuning.comPins32 else s.par.tuning.comPins64),
          precharge := s.par.tuning.precharge, vcomh := s.par.tuning.vcomh } }

/-- A glyph written at the cursor in horizontal mode. Where its eight columns do not pass the column end, it sets them and no
other display byte; the cursor moves eight columns right, or, when they end at the column end, to the column start of the next
page. Where they pass it, the `n` bytes up to the end go to this page, the controller is then at the column start of the next
page, and the other bytes go on from there (R84, R49). Nothing corrects the overflow (R95, R141). -/
def Obligations.GlyphSetsItsPixels : Prop :=
  ∀ (c : Controller) (g : List Byte), g.length = 8 → c.amode = .horizontal →
    (c.colPtr.toNat + 7 ≤ c.colEnd.toNat →
      (∀ j i, j < 8 → i < 8 →
        (c.dataStream g).pixel (c.colPtr.toNat + j) (8 * c.pagePtr.toNat + i) = (g[j]?).map fun b => b.getLsbD i) ∧
      (c.colPtr.toNat + 7 < c.colEnd.toNat →
        (c.dataStream g).colPtr.toNat = c.colPtr.toNat + 8 ∧ (c.dataStream g).pagePtr = c.pagePtr) ∧
      (c.colPtr.toNat + 7 = c.colEnd.toNat →
        (c.dataStream g).colPtr = c.colStart ∧ (c.dataStream g).pagePtr = c.nextPage) ∧
      ∀ a, (∀ j, j < 8 → a ≠ 128 * c.pagePtr.toNat + (c.colPtr.toNat + j)) →
        Memory.read (c.dataStream g).ram a = Memory.read c.ram a) ∧
    (∀ n, n = max 1 (c.colEnd.toNat + 1 - c.colPtr.toNat) → n < 8 →
      let d := c.dataStream (g.take n)
      (∀ j i, j < n → i < 8 →
        d.pixel (c.colPtr.toNat + j) (8 * c.pagePtr.toNat + i) = (g[j]?).map fun b => b.getLsbD i) ∧
      d.colPtr = c.colStart ∧ d.pagePtr = c.nextPage ∧ c.dataStream g = d.dataStream (g.drop n) ∧
      (c.colStart.toNat + (7 - n) ≤ c.colEnd.toNat →
        (∀ j i, j < 8 - n → i < 8 →
          (c.dataStream g).pixel (c.colStart.toNat + j) (8 * c.nextPage.toNat + i) =
            (g[n + j]?).map fun b => b.getLsbD i) ∧
        ∀ a, (∀ j, j < n → a ≠ 128 * c.pagePtr.toNat + (c.colPtr.toNat + j)) →
          (∀ j, j < 8 - n → a ≠ 128 * c.nextPage.toNat + (c.colStart.toNat + j)) →
          Memory.read (c.dataStream g).ram a = Memory.read c.ram a))

/-- CLEAR's display. A CLEAR at the head of the queue whose writes all succeed ends with the panel as its `P` delivered
clear-page frames leave it. With the ranges at full extent the visible display is then all zero, whatever it held before,
exactly when `W = 128` and either the column pointer was 0 or `P = 8` (R51, R93). -/
def Obligations.ClearBlanksExactlyWhen : Prop :=
  (∀ (s : State) (c : Nat) (req : Request) (rest : List (Nat × Request)) (as : List Answer),
    s.turns = [] → s.engineNext → s.head c req rest → decodeRequest req = .ok .clear →
    s.reg.sess = .opened → legalSize s.reg.W s.reg.H → s.reg.addr = s.par.panelAddr →
    s.answers = List.replicate s.reg.pages .ok ++ as →
    ∃ k t, Host.Core.run core k s = .next t ∧
      t.inflight = none ∧ t.queue = rest ∧ t.answers = as ∧ (∃ es, t.trace = es ++ [.respond c .ok]) ∧
      t.ctl = { clearPages s.reg.W s.reg.pages s.ctl with rx := [], rxPos := .dataStream }) ∧
  (∀ (W P : Nat) (c : Controller), 1 ≤ W → W ≤ 128 → (P = 4 ∨ P = 8) →
    c.amode = .horizontal → c.colStart = 0 → c.colEnd.toNat = 127 → c.pageStart = 0 → c.pageEnd.toNat = 7 →
    ((∀ ram : List Host.Cell, Memory.wf ram = true → ∀ p x, p < P → x < W →
        Memory.read (clearPages W P { c with ram := ram }).ram (128 * p + x) = some 0x00) ↔
      W = 128 ∧ (c.colPtr = 0 ∨ P = 8)))

/-! ## Codes -/

/-- The response codes are 0 to 5, so 6 and 7 are never produced, and no two kinds share one (R115). The session state's
two bits are those of R7, and 0b11 is no session state (93_implementation_defined.md I19). -/
def Obligations.ResponseAndSessionCodes : Prop :=
  Response.code .ok = 0 ∧
  (∀ info, (Response.err .configuration info).code = 1) ∧
  (∀ info, (Response.err .transport info).code = 2) ∧
  (∀ info, (Response.err .outOfRange info).code = 3) ∧
  (∀ info, (Response.err .closed info).code = 4) ∧
  (∀ info, (Response.err .unsupported info).code = 5) ∧
  (∀ r : Response, r.code.toNat ≤ 5) ∧
  Sess.bits .idle = 0b00 ∧ Sess.bits .opened = 0b01 ∧ Sess.bits .closed = 0b10 ∧
  (∀ x : Sess, Sess.ofBits x.bits = some x) ∧ Sess.ofBits 0b11 = none
end

