-- ==== Sys2Proof/Laws/Memory.lean ====
section
/-! SUPPORT. Laws of the display memory: read after write, and the canonical form that every operation keeps. -/

namespace Sys2Proof.Machine

namespace Memory

@[simp] theorem read_nil (a : Nat) : read [] a = none := rfl

theorem read_write_same (m : List Host.Cell) (a : Nat) (b : Byte) : read (write m a b) a = some b := by
  induction m with
  | nil => simp [write, read]
  | cons kv m ih =>
    obtain ⟨k, v⟩ := kv
    simp only [write]
    split_ifs with h1 h2
    · simp [read]
    · simp [read]
    · simp [read, Ne.symm h2, ih]

theorem read_write_other (m : List Host.Cell) (a a' : Nat) (b : Byte) (h : a' ≠ a) :
    read (write m a b) a' = read m a' := by
  induction m with
  | nil => simp [write, read, Ne.symm h]
  | cons kv m ih =>
    obtain ⟨k, v⟩ := kv
    simp only [write]
    split_ifs with h1 h2
    · simp [read, Ne.symm h]
    · subst h2; simp [read, Ne.symm h]
    · simp [read, ih]

theorem read_write (m : List Host.Cell) (a a' : Nat) (b : Byte) :
    read (write m a b) a' = if a' = a then some b else read m a' := by
  split_ifs with h
  · rw [h, read_write_same]
  · exact read_write_other m a a' b h

/-- The canonical form as a statement about the addresses. -/
theorem wf_iff (m : List Host.Cell) :
    wf m = true ↔ (m.map Prod.fst).Pairwise (· < ·) ∧ ∀ c ∈ m, c.1 < size := by
  induction m with
  | nil => simp [wf]
  | cons kv m ih =>
    obtain ⟨k, v⟩ := kv
    cases m with
    | nil => simp [wf]
    | cons lw m =>
      obtain ⟨l, w⟩ := lw
      simp only [wf, Bool.and_eq_true, decide_eq_true_eq, ih]
      simp only [List.map_cons, List.pairwise_cons, List.mem_cons, List.mem_map, forall_eq_or_imp]
      constructor
      · rintro ⟨hkl, ⟨hl, hp⟩, hls, hm⟩
        refine ⟨⟨⟨hkl, ?_⟩, hl, hp⟩, by omega, hls, hm⟩
        intro a ha
        exact lt_trans hkl (hl a ha)
      · rintro ⟨⟨⟨hkl, -⟩, hl, hp⟩, -, hls, hm⟩
        exact ⟨hkl, ⟨hl, hp⟩, hls, hm⟩

theorem mem_write_addr {m : List Host.Cell} {a : Nat} {b : Byte} {c : Host.Cell} (h : c ∈ write m a b) :
    c.1 = a ∨ c ∈ m := by
  induction m with
  | nil => simp [write] at h; simp [h]
  | cons kv m ih =>
    obtain ⟨k, v⟩ := kv
    simp only [write] at h
    split_ifs at h with h1 h2
    · rcases List.mem_cons.1 h with rfl | h
      · exact .inl rfl
      · exact .inr h
    · rcases List.mem_cons.1 h with rfl | h
      · exact .inl rfl
      · exact .inr (List.mem_cons_of_mem _ h)
    · rcases List.mem_cons.1 h with rfl | h
      · exact .inr List.mem_cons_self
      · exact (ih h).imp id (List.mem_cons_of_mem _)

/-- A write inside the display memory keeps the canonical form. -/
theorem wf_write {m : List Host.Cell} {a : Nat} {b : Byte} (hm : wf m = true) (ha : a < size) :
    wf (write m a b) = true := by
  rw [wf_iff] at hm ⊢
  obtain ⟨hp, hs⟩ := hm
  refine ⟨?_, fun c hc => (mem_write_addr hc).elim (fun h => h ▸ ha) (hs c)⟩
  clear hs
  induction m with
  | nil => simp [write]
  | cons kv m ih =>
    obtain ⟨k, v⟩ := kv
    simp only [List.map_cons, List.pairwise_cons] at hp
    simp only [write]
    split_ifs with h1 h2
    · simp only [List.map_cons, List.pairwise_cons, List.mem_cons, forall_eq_or_imp]
      exact ⟨⟨h1, fun x hx => lt_trans h1 (hp.1 x hx)⟩, hp⟩
    · subst h2; simpa using hp
    · simp only [List.map_cons, List.pairwise_cons]
      refine ⟨fun x hx => ?_, ih hp.2⟩
      obtain ⟨c, hc, rfl⟩ := List.mem_map.1 hx
      rcases mem_write_addr hc with h | h
      · rw [h]; omega
      · exact hp.1 _ (List.mem_map_of_mem h)

end Memory

theorem ramAddr_lt (p : Page) (x : Column) : ramAddr p x < Memory.size := by
  have := p.isLt; have := x.isLt
  unfold ramAddr Memory.size
  omega

@[simp] theorem advance_ram (c : Controller) : c.advance.ram = c.ram := by
  unfold Controller.advance
  split <;> (try split_ifs) <;> rfl

@[simp] theorem advance_rx (c : Controller) : c.advance.rx = c.rx := by
  unfold Controller.advance
  split <;> (try split_ifs) <;> rfl

@[simp] theorem advance_rxPos (c : Controller) : c.advance.rxPos = c.rxPos := by
  unfold Controller.advance
  split <;> (try split_ifs) <;> rfl

@[simp] theorem data_ram (c : Controller) (b : Byte) :
    (c.data b).ram = Memory.write c.ram (ramAddr c.pagePtr c.colPtr) b := by simp [Controller.data]

@[simp] theorem data_rx (c : Controller) (b : Byte) : (c.data b).rx = c.rx := by simp [Controller.data]

@[simp] theorem data_rxPos (c : Controller) (b : Byte) : (c.data b).rxPos = c.rxPos := by simp [Controller.data]

@[simp] theorem dataStream_nil (c : Controller) : c.dataStream [] = c := rfl

@[simp] theorem dataStream_cons (c : Controller) (b : Byte) (bs : List Byte) :
    c.dataStream (b :: bs) = (c.data b).dataStream bs := rfl

@[simp] theorem dataStream_rx (c : Controller) (bs : List Byte) : (c.dataStream bs).rx = c.rx := by
  induction bs generalizing c with
  | nil => rfl
  | cons b bs ih => simp [ih]

@[simp] theorem dataStream_rxPos (c : Controller) (bs : List Byte) : (c.dataStream bs).rxPos = c.rxPos := by
  induction bs generalizing c with
  | nil => rfl
  | cons b bs ih => simp [ih]

/-- Display data keeps the memory's canonical form. -/
theorem data_wf {c : Controller} (b : Byte) (h : Memory.wf c.ram = true) : Memory.wf (c.data b).ram = true := by
  rw [data_ram]
  exact Memory.wf_write h (ramAddr_lt _ _)

theorem dataStream_wf {c : Controller} (bs : List Byte) (h : Memory.wf c.ram = true) :
    Memory.wf (c.dataStream bs).ram = true := by
  induction bs generalizing c with
  | nil => exact h
  | cons b bs ih => exact ih (data_wf b h)

@[simp] theorem extra_ram (c : Controller) (x : ExtraCommand) : (c.extra x).ram = c.ram := by cases x <;> rfl

@[simp] theorem extra_rx (c : Controller) (x : ExtraCommand) : (c.extra x).rx = c.rx := by cases x <;> rfl

@[simp] theorem extra_rxPos (c : Controller) (x : ExtraCommand) : (c.extra x).rxPos = c.rxPos := by cases x <;> rfl

/-- The display memory after reset has the canonical form. -/
theorem reset_memory_wf : Memory.wf State.reset.ctl.ram = true := rfl

end Sys2Proof.Machine
end

