-- ==== Sys2Proof/Laws/State.lean ====
section
/-! SUPPORT. What each shared update leaves in each field of State: one lemma per field per update, true by rfl. -/

namespace Sys2Proof.Machine


/-! ### respond -/

@[simp] theorem respond_reg (c : Nat) (r : Response) (s : State) : (respond c r s).reg = s.reg := rfl
@[simp] theorem respond_textPage (c : Nat) (r : Response) (s : State) : (respond c r s).textPage = s.textPage := rfl
@[simp] theorem respond_queue (c : Nat) (r : Response) (s : State) : (respond c r s).queue = s.queue := rfl
@[simp] theorem respond_waiting (c : Nat) (r : Response) (s : State) : (respond c r s).waiting = dropCaller c s.waiting := rfl
@[simp] theorem respond_inflight (c : Nat) (r : Response) (s : State) : (respond c r s).inflight = s.inflight := rfl
@[simp] theorem respond_seq (c : Nat) (r : Response) (s : State) : (respond c r s).seq = s.seq := rfl
@[simp] theorem respond_par (c : Nat) (r : Response) (s : State) : (respond c r s).par = s.par := rfl
@[simp] theorem respond_ctl (c : Nat) (r : Response) (s : State) : (respond c r s).ctl = s.ctl := rfl
@[simp] theorem respond_turns (c : Nat) (r : Response) (s : State) : (respond c r s).turns = s.turns := rfl
@[simp] theorem respond_answers (c : Nat) (r : Response) (s : State) : (respond c r s).answers = s.answers := rfl
@[simp] theorem respond_trace (c : Nat) (r : Response) (s : State) : (respond c r s).trace = s.trace ++ [.respond c r] := rfl
@[simp] theorem respond_draws (c : Nat) (r : Response) (s : State) : (respond c r s).draws = s.draws := rfl

/-! ### answerError -/

@[simp] theorem answerError_reg (c : Nat) (k : ErrKind) (info : Info) (s : State) : (answerError c k info s).reg = s.reg := rfl
@[simp] theorem answerError_textPage (c : Nat) (k : ErrKind) (info : Info) (s : State) : (answerError c k info s).textPage = s.textPage := rfl
@[simp] theorem answerError_queue (c : Nat) (k : ErrKind) (info : Info) (s : State) : (answerError c k info s).queue = s.queue := rfl
@[simp] theorem answerError_waiting (c : Nat) (k : ErrKind) (info : Info) (s : State) : (answerError c k info s).waiting = dropCaller c s.waiting := rfl
@[simp] theorem answerError_inflight (c : Nat) (k : ErrKind) (info : Info) (s : State) : (answerError c k info s).inflight = none := rfl
@[simp] theorem answerError_seq (c : Nat) (k : ErrKind) (info : Info) (s : State) : (answerError c k info s).seq = s.seq := rfl
@[simp] theorem answerError_par (c : Nat) (k : ErrKind) (info : Info) (s : State) : (answerError c k info s).par = s.par := rfl
@[simp] theorem answerError_ctl (c : Nat) (k : ErrKind) (info : Info) (s : State) : (answerError c k info s).ctl = s.ctl := rfl
@[simp] theorem answerError_turns (c : Nat) (k : ErrKind) (info : Info) (s : State) : (answerError c k info s).turns = s.turns := rfl
@[simp] theorem answerError_answers (c : Nat) (k : ErrKind) (info : Info) (s : State) : (answerError c k info s).answers = s.answers := rfl
@[simp] theorem answerError_trace (c : Nat) (k : ErrKind) (info : Info) (s : State) : (answerError c k info s).trace = s.trace ++ [.respond c (.err k info)] := rfl
@[simp] theorem answerError_draws (c : Nat) (k : ErrKind) (info : Info) (s : State) : (answerError c k info s).draws = s.draws := rfl

/-! ### endOperation -/

@[simp] theorem endOperation_reg (s : State) : (endOperation s).reg = s.reg := rfl
@[simp] theorem endOperation_textPage (s : State) : (endOperation s).textPage = 0 := rfl
@[simp] theorem endOperation_queue (s : State) : (endOperation s).queue = s.queue := rfl
@[simp] theorem endOperation_waiting (s : State) : (endOperation s).waiting = s.waiting := rfl
@[simp] theorem endOperation_inflight (s : State) : (endOperation s).inflight = none := rfl
@[simp] theorem endOperation_seq (s : State) : (endOperation s).seq = s.seq := rfl
@[simp] theorem endOperation_par (s : State) : (endOperation s).par = s.par := rfl
@[simp] theorem endOperation_ctl (s : State) : (endOperation s).ctl = s.ctl := rfl
@[simp] theorem endOperation_turns (s : State) : (endOperation s).turns = s.turns := rfl
@[simp] theorem endOperation_answers (s : State) : (endOperation s).answers = s.answers := rfl
@[simp] theorem endOperation_trace (s : State) : (endOperation s).trace = s.trace := rfl
@[simp] theorem endOperation_draws (s : State) : (endOperation s).draws = s.draws := rfl

/-! ### launch -/

@[simp] theorem launch_reg (c : Nat) (req : Request) (fs : List Frame) (a : BusAddr) (k : Commit) (p : Page) (s : State) : (launch c req fs a k p s).reg = s.reg := rfl
@[simp] theorem launch_textPage (c : Nat) (req : Request) (fs : List Frame) (a : BusAddr) (k : Commit) (p : Page) (s : State) : (launch c req fs a k p s).textPage = p := rfl
@[simp] theorem launch_queue (c : Nat) (req : Request) (fs : List Frame) (a : BusAddr) (k : Commit) (p : Page) (s : State) : (launch c req fs a k p s).queue = s.queue := rfl
@[simp] theorem launch_waiting (c : Nat) (req : Request) (fs : List Frame) (a : BusAddr) (k : Commit) (p : Page) (s : State) : (launch c req fs a k p s).waiting = s.waiting := rfl
@[simp] theorem launch_inflight (c : Nat) (req : Request) (fs : List Frame) (a : BusAddr) (k : Commit) (p : Page) (s : State) : (launch c req fs a k p s).inflight = some { caller := c, req := req, frames := fs, addr := a, commit := k } := rfl
@[simp] theorem launch_seq (c : Nat) (req : Request) (fs : List Frame) (a : BusAddr) (k : Commit) (p : Page) (s : State) : (launch c req fs a k p s).seq = 0 := rfl
@[simp] theorem launch_par (c : Nat) (req : Request) (fs : List Frame) (a : BusAddr) (k : Commit) (p : Page) (s : State) : (launch c req fs a k p s).par = s.par := rfl
@[simp] theorem launch_ctl (c : Nat) (req : Request) (fs : List Frame) (a : BusAddr) (k : Commit) (p : Page) (s : State) : (launch c req fs a k p s).ctl = s.ctl := rfl
@[simp] theorem launch_turns (c : Nat) (req : Request) (fs : List Frame) (a : BusAddr) (k : Commit) (p : Page) (s : State) : (launch c req fs a k p s).turns = s.turns := rfl
@[simp] theorem launch_answers (c : Nat) (req : Request) (fs : List Frame) (a : BusAddr) (k : Commit) (p : Page) (s : State) : (launch c req fs a k p s).answers = s.answers := rfl
@[simp] theorem launch_trace (c : Nat) (req : Request) (fs : List Frame) (a : BusAddr) (k : Commit) (p : Page) (s : State) : (launch c req fs a k p s).trace = s.trace := rfl
@[simp] theorem launch_draws (c : Nat) (req : Request) (fs : List Frame) (a : BusAddr) (k : Commit) (p : Page) (s : State) : (launch c req fs a k p s).draws = s.draws := rfl

/-! ### submit -/

@[simp] theorem submit_reg (c : Nat) (req : Request) (s : State) : (submit c req s).reg = s.reg := rfl
@[simp] theorem submit_textPage (c : Nat) (req : Request) (s : State) : (submit c req s).textPage = s.textPage := rfl
@[simp] theorem submit_queue (c : Nat) (req : Request) (s : State) : (submit c req s).queue = s.queue ++ [(c, req)] := rfl
@[simp] theorem submit_waiting (c : Nat) (req : Request) (s : State) : (submit c req s).waiting = addCaller c s.waiting := rfl
@[simp] theorem submit_inflight (c : Nat) (req : Request) (s : State) : (submit c req s).inflight = s.inflight := rfl
@[simp] theorem submit_seq (c : Nat) (req : Request) (s : State) : (submit c req s).seq = s.seq := rfl
@[simp] theorem submit_par (c : Nat) (req : Request) (s : State) : (submit c req s).par = s.par := rfl
@[simp] theorem submit_ctl (c : Nat) (req : Request) (s : State) : (submit c req s).ctl = s.ctl := rfl
@[simp] theorem submit_turns (c : Nat) (req : Request) (s : State) : (submit c req s).turns = s.turns := rfl
@[simp] theorem submit_answers (c : Nat) (req : Request) (s : State) : (submit c req s).answers = s.answers := rfl
@[simp] theorem submit_trace (c : Nat) (req : Request) (s : State) : (submit c req s).trace = s.trace := rfl
@[simp] theorem submit_draws (c : Nat) (req : Request) (s : State) : (submit c req s).draws = s.draws := rfl

/-! ### completeStep -/

@[simp] theorem completeStep_reg (op : Operation) (s : State) : (completeStep op s).reg = applyCommit s.reg op.commit := rfl
@[simp] theorem completeStep_textPage (op : Operation) (s : State) : (completeStep op s).textPage = 0 := rfl
@[simp] theorem completeStep_queue (op : Operation) (s : State) : (completeStep op s).queue = s.queue := rfl
@[simp] theorem completeStep_waiting (op : Operation) (s : State) : (completeStep op s).waiting = dropCaller op.caller s.waiting := rfl
@[simp] theorem completeStep_inflight (op : Operation) (s : State) : (completeStep op s).inflight = none := rfl
@[simp] theorem completeStep_seq (op : Operation) (s : State) : (completeStep op s).seq = s.seq := rfl
@[simp] theorem completeStep_par (op : Operation) (s : State) : (completeStep op s).par = s.par := rfl
@[simp] theorem completeStep_ctl (op : Operation) (s : State) : (completeStep op s).ctl = s.ctl := rfl
@[simp] theorem completeStep_turns (op : Operation) (s : State) : (completeStep op s).turns = s.turns := rfl
@[simp] theorem completeStep_answers (op : Operation) (s : State) : (completeStep op s).answers = s.answers := rfl
@[simp] theorem completeStep_trace (op : Operation) (s : State) : (completeStep op s).trace = s.trace ++ [.respond op.caller .ok] := rfl
@[simp] theorem completeStep_draws (op : Operation) (s : State) : (completeStep op s).draws = s.draws := rfl

/-! ### resetBlock -/

@[simp] theorem resetBlock_reg (s : State) : (resetBlock s).reg = .reset := rfl
@[simp] theorem resetBlock_textPage (s : State) : (resetBlock s).textPage = 0 := rfl
@[simp] theorem resetBlock_queue (s : State) : (resetBlock s).queue = [] := rfl
@[simp] theorem resetBlock_waiting (s : State) : (resetBlock s).waiting = [] := rfl
@[simp] theorem resetBlock_inflight (s : State) : (resetBlock s).inflight = none := rfl
@[simp] theorem resetBlock_seq (s : State) : (resetBlock s).seq = 0 := rfl
@[simp] theorem resetBlock_par (s : State) : (resetBlock s).par = s.par := rfl
@[simp] theorem resetBlock_ctl (s : State) : (resetBlock s).ctl = s.ctl := rfl
@[simp] theorem resetBlock_turns (s : State) : (resetBlock s).turns = s.turns := rfl
@[simp] theorem resetBlock_answers (s : State) : (resetBlock s).answers = s.answers := rfl
@[simp] theorem resetBlock_trace (s : State) : (resetBlock s).trace = s.trace ++ [.blockReset] := rfl
@[simp] theorem resetBlock_draws (s : State) : (resetBlock s).draws = s.draws := rfl

/-! ### panelReset -/

@[simp] theorem panelReset_reg (s : State) : (panelReset s).reg = s.reg := rfl
@[simp] theorem panelReset_textPage (s : State) : (panelReset s).textPage = s.textPage := rfl
@[simp] theorem panelReset_queue (s : State) : (panelReset s).queue = s.queue := rfl
@[simp] theorem panelReset_waiting (s : State) : (panelReset s).waiting = s.waiting := rfl
@[simp] theorem panelReset_inflight (s : State) : (panelReset s).inflight = s.inflight := rfl
@[simp] theorem panelReset_seq (s : State) : (panelReset s).seq = s.seq := rfl
@[simp] theorem panelReset_par (s : State) : (panelReset s).par = s.par := rfl
@[simp] theorem panelReset_ctl (s : State) : (panelReset s).ctl = .afterReset := rfl
@[simp] theorem panelReset_turns (s : State) : (panelReset s).turns = s.turns := rfl
@[simp] theorem panelReset_answers (s : State) : (panelReset s).answers = s.answers := rfl
@[simp] theorem panelReset_trace (s : State) : (panelReset s).trace = s.trace := rfl
@[simp] theorem panelReset_draws (s : State) : (panelReset s).draws = s.draws := rfl

/-! ### cutCommand -/

@[simp] theorem cutCommand_reg (b : Byte) (s : State) : (cutCommand b s).reg = s.reg := rfl
@[simp] theorem cutCommand_textPage (b : Byte) (s : State) : (cutCommand b s).textPage = s.textPage := rfl
@[simp] theorem cutCommand_queue (b : Byte) (s : State) : (cutCommand b s).queue = s.queue := rfl
@[simp] theorem cutCommand_waiting (b : Byte) (s : State) : (cutCommand b s).waiting = s.waiting := rfl
@[simp] theorem cutCommand_inflight (b : Byte) (s : State) : (cutCommand b s).inflight = s.inflight := rfl
@[simp] theorem cutCommand_seq (b : Byte) (s : State) : (cutCommand b s).seq = s.seq := rfl
@[simp] theorem cutCommand_par (b : Byte) (s : State) : (cutCommand b s).par = s.par := rfl
@[simp] theorem cutCommand_ctl (b : Byte) (s : State) : (cutCommand b s).ctl = { s.ctl.cutShort s.draws b with rx := [] } := rfl
@[simp] theorem cutCommand_turns (b : Byte) (s : State) : (cutCommand b s).turns = s.turns := rfl
@[simp] theorem cutCommand_answers (b : Byte) (s : State) : (cutCommand b s).answers = s.answers := rfl
@[simp] theorem cutCommand_trace (b : Byte) (s : State) : (cutCommand b s).trace = s.trace := rfl
@[simp] theorem cutCommand_draws (b : Byte) (s : State) : (cutCommand b s).draws = s.draws + 3 := rfl

/-! ### deliver: only the controller may change -/

@[simp] theorem deliver_reg (bytes : List Byte) (s : State) : (deliver bytes s).reg = s.reg := by
  unfold deliver
  split_ifs <;> rfl
@[simp] theorem deliver_textPage (bytes : List Byte) (s : State) : (deliver bytes s).textPage = s.textPage := by
  unfold deliver
  split_ifs <;> rfl
@[simp] theorem deliver_queue (bytes : List Byte) (s : State) : (deliver bytes s).queue = s.queue := by
  unfold deliver
  split_ifs <;> rfl
@[simp] theorem deliver_waiting (bytes : List Byte) (s : State) : (deliver bytes s).waiting = s.waiting := by
  unfold deliver
  split_ifs <;> rfl
@[simp] theorem deliver_inflight (bytes : List Byte) (s : State) : (deliver bytes s).inflight = s.inflight := by
  unfold deliver
  split_ifs <;> rfl
@[simp] theorem deliver_seq (bytes : List Byte) (s : State) : (deliver bytes s).seq = s.seq := by
  unfold deliver
  split_ifs <;> rfl
@[simp] theorem deliver_par (bytes : List Byte) (s : State) : (deliver bytes s).par = s.par := by
  unfold deliver
  split_ifs <;> rfl
@[simp] theorem deliver_turns (bytes : List Byte) (s : State) : (deliver bytes s).turns = s.turns := by
  unfold deliver
  split_ifs <;> rfl
@[simp] theorem deliver_answers (bytes : List Byte) (s : State) : (deliver bytes s).answers = s.answers := by
  unfold deliver
  split_ifs <;> rfl
@[simp] theorem deliver_trace (bytes : List Byte) (s : State) : (deliver bytes s).trace = s.trace := by
  unfold deliver
  split_ifs <;> rfl
@[simp] theorem deliver_draws (bytes : List Byte) (s : State) : (deliver bytes s).draws = s.draws := by
  unfold deliver
  split_ifs <;> rfl

/-! ### toPanel: only the controller may change -/

@[simp] theorem toPanel_reg (a : BusAddr) (bytes : List Byte) (s : State) : (toPanel a bytes s).reg = s.reg := by
  unfold toPanel
  split_ifs
  · simp
  · rfl
@[simp] theorem toPanel_textPage (a : BusAddr) (bytes : List Byte) (s : State) : (toPanel a bytes s).textPage = s.textPage := by
  unfold toPanel
  split_ifs
  · simp
  · rfl
@[simp] theorem toPanel_queue (a : BusAddr) (bytes : List Byte) (s : State) : (toPanel a bytes s).queue = s.queue := by
  unfold toPanel
  split_ifs
  · simp
  · rfl
@[simp] theorem toPanel_waiting (a : BusAddr) (bytes : List Byte) (s : State) : (toPanel a bytes s).waiting = s.waiting := by
  unfold toPanel
  split_ifs
  · simp
  · rfl
@[simp] theorem toPanel_inflight (a : BusAddr) (bytes : List Byte) (s : State) : (toPanel a bytes s).inflight = s.inflight := by
  unfold toPanel
  split_ifs
  · simp
  · rfl
@[simp] theorem toPanel_seq (a : BusAddr) (bytes : List Byte) (s : State) : (toPanel a bytes s).seq = s.seq := by
  unfold toPanel
  split_ifs
  · simp
  · rfl
@[simp] theorem toPanel_par (a : BusAddr) (bytes : List Byte) (s : State) : (toPanel a bytes s).par = s.par := by
  unfold toPanel
  split_ifs
  · simp
  · rfl
@[simp] theorem toPanel_turns (a : BusAddr) (bytes : List Byte) (s : State) : (toPanel a bytes s).turns = s.turns := by
  unfold toPanel
  split_ifs
  · simp
  · rfl
@[simp] theorem toPanel_answers (a : BusAddr) (bytes : List Byte) (s : State) : (toPanel a bytes s).answers = s.answers := by
  unfold toPanel
  split_ifs
  · simp
  · rfl
@[simp] theorem toPanel_trace (a : BusAddr) (bytes : List Byte) (s : State) : (toPanel a bytes s).trace = s.trace := by
  unfold toPanel
  split_ifs
  · simp
  · rfl
@[simp] theorem toPanel_draws (a : BusAddr) (bytes : List Byte) (s : State) : (toPanel a bytes s).draws = s.draws := by
  unfold toPanel
  split_ifs
  · simp
  · rfl

/-! ### emitOk -/

@[simp] theorem emitOk_reg (op : Operation) (f : Frame) (s : State) : (emitOk op f s).reg = s.reg := by simp [emitOk]
@[simp] theorem emitOk_textPage (op : Operation) (f : Frame) (s : State) : (emitOk op f s).textPage = s.textPage := by simp [emitOk]
@[simp] theorem emitOk_queue (op : Operation) (f : Frame) (s : State) : (emitOk op f s).queue = s.queue := by simp [emitOk]
@[simp] theorem emitOk_waiting (op : Operation) (f : Frame) (s : State) : (emitOk op f s).waiting = s.waiting := by simp [emitOk]
@[simp] theorem emitOk_inflight (op : Operation) (f : Frame) (s : State) : (emitOk op f s).inflight = s.inflight := by simp [emitOk]
@[simp] theorem emitOk_seq (op : Operation) (f : Frame) (s : State) : (emitOk op f s).seq = s.seq + 1 := by simp [emitOk]
@[simp] theorem emitOk_par (op : Operation) (f : Frame) (s : State) : (emitOk op f s).par = s.par := by simp [emitOk]
@[simp] theorem emitOk_turns (op : Operation) (f : Frame) (s : State) : (emitOk op f s).turns = s.turns := by simp [emitOk]
@[simp] theorem emitOk_answers (op : Operation) (f : Frame) (s : State) : (emitOk op f s).answers = s.answers := by simp [emitOk]
@[simp] theorem emitOk_trace (op : Operation) (f : Frame) (s : State) : (emitOk op f s).trace = s.trace ++ [.write op.caller op.addr f .ok] := by simp [emitOk]
@[simp] theorem emitOk_draws (op : Operation) (f : Frame) (s : State) : (emitOk op f s).draws = s.draws := by simp [emitOk]

/-! ### emitFail -/

@[simp] theorem emitFail_reg (op : Operation) (f : Frame) (r : TransportReason) (k : Nat) (s : State) : (emitFail op f r k s).reg = s.reg := by simp [emitFail]
@[simp] theorem emitFail_textPage (op : Operation) (f : Frame) (r : TransportReason) (k : Nat) (s : State) : (emitFail op f r k s).textPage = 0 := by simp [emitFail]
@[simp] theorem emitFail_queue (op : Operation) (f : Frame) (r : TransportReason) (k : Nat) (s : State) : (emitFail op f r k s).queue = s.queue := by simp [emitFail]
@[simp] theorem emitFail_waiting (op : Operation) (f : Frame) (r : TransportReason) (k : Nat) (s : State) : (emitFail op f r k s).waiting = dropCaller op.caller s.waiting := by simp [emitFail]
@[simp] theorem emitFail_inflight (op : Operation) (f : Frame) (r : TransportReason) (k : Nat) (s : State) : (emitFail op f r k s).inflight = none := by simp [emitFail]
@[simp] theorem emitFail_seq (op : Operation) (f : Frame) (r : TransportReason) (k : Nat) (s : State) : (emitFail op f r k s).seq = s.seq := by simp [emitFail]
@[simp] theorem emitFail_par (op : Operation) (f : Frame) (r : TransportReason) (k : Nat) (s : State) : (emitFail op f r k s).par = s.par := by simp [emitFail]
@[simp] theorem emitFail_turns (op : Operation) (f : Frame) (r : TransportReason) (k : Nat) (s : State) : (emitFail op f r k s).turns = s.turns := by simp [emitFail]
@[simp] theorem emitFail_answers (op : Operation) (f : Frame) (r : TransportReason) (k : Nat) (s : State) : (emitFail op f r k s).answers = s.answers := by simp [emitFail]
@[simp] theorem emitFail_trace (op : Operation) (f : Frame) (r : TransportReason) (k : Nat) (s : State) : (emitFail op f r k s).trace = s.trace ++ [.write op.caller op.addr f (.fail r k), .respond op.caller (.err .transport (.reason r))] := by simp [emitFail]
@[simp] theorem emitFail_draws (op : Operation) (f : Frame) (r : TransportReason) (k : Nat) (s : State) : (emitFail op f r k s).draws = s.draws := by simp [emitFail]

end Sys2Proof.Machine
end

