-- ==== Sys2Proof/Laws/Ops.lean ====
section
/-! SUPPORT. For each shared operation, one lemma that says everything it can do; later proofs cite these and unfold nothing. -/

namespace Sys2Proof.Machine

/-! ## Callers -/

@[simp] theorem mem_addCaller (c d : Nat) (ds : List Nat) : d ∈ addCaller c ds ↔ d = c ∨ d ∈ ds := by
  induction ds with
  | nil => simp [addCaller]
  | cons e es ih =>
    simp only [addCaller]
    split_ifs with h1 h2
    · simp
    · subst h2; simp
    · simp only [List.mem_cons, ih]; tauto

@[simp] theorem mem_dropCaller (c d : Nat) (ds : List Nat) : d ∈ dropCaller c ds ↔ d ∈ ds ∧ d ≠ c := by
  simp [dropCaller]

theorem addCaller_sorted {c : Nat} {ds : List Nat} (h : ds.Pairwise (· < ·)) : (addCaller c ds).Pairwise (· < ·) := by
  induction ds with
  | nil => simp [addCaller]
  | cons e es ih =>
    rw [List.pairwise_cons] at h
    simp only [addCaller]
    split_ifs with h1 h2
    · simp only [List.pairwise_cons, List.mem_cons, forall_eq_or_imp]
      exact ⟨⟨h1, fun x hx => lt_trans h1 (h.1 x hx)⟩, h⟩
    · exact List.pairwise_cons.2 h
    · rw [List.pairwise_cons]
      refine ⟨fun x hx => ?_, ih h.2⟩
      rcases (mem_addCaller c x es).1 hx with rfl | hx
      · omega
      · exact h.1 x hx

theorem dropCaller_sorted {c : Nat} {ds : List Nat} (h : ds.Pairwise (· < ·)) : (dropCaller c ds).Pairwise (· < ·) :=
  h.filter _

theorem resp_waiting (s : State) (c : Nat) : s.resp c = .waiting ↔ c ∈ s.waiting := by
  simp [State.resp]

theorem resp_none (s : State) (c : Nat) : s.resp c = .none ↔ c ∉ s.waiting := by
  simp [State.resp]

/-- Two states with the same waiting callers have the same slots. -/
theorem resp_congr {s t : State} (h : t.waiting = s.waiting) (c : Nat) : t.resp c = s.resp c := by
  simp [State.resp, h]

/-- Answering a caller frees its slot and no other. -/
theorem respond_resp (c : Nat) (r : Response) (s : State) (d : Nat) :
    (respond c r s).resp d = if d = c then .none else s.resp d := by
  by_cases h : d = c <;> simp [State.resp, h]

/-! ## Accepting -/

theorem accept_start {cls : RequestClass} {pl : Planned} {page : Page} {s : State} {c : Nat} {req : Request}
    {rest : List (Nat × Request)} {fs : List Frame} {a : BusAddr} {k : Commit}
    (h : s.head c req rest) (hg : gate s.reg.sess cls = none) (hp : pl = .plan fs a k) :
    accept cls pl page s = .next { started s c req rest fs a k with textPage := page } := by
  subst hp
  simp [accept, h.1, h.2, hg, launch, started]

theorem accept_planError {cls : RequestClass} {pl : Planned} {page : Page} {s : State} {c : Nat} {req : Request}
    {rest : List (Nat × Request)} {k : ErrKind} {info : Info}
    (h : s.head c req rest) (hg : gate s.reg.sess cls = none) (hp : pl = .error k info) :
    accept cls pl page s = .next (turnedAway s c rest k info) := by
  subst hp
  obtain ⟨h1, h2⟩ := h
  cases s
  simp_all [accept, answerError, respond, turnedAway, dropCaller]

theorem accept_gateError {cls : RequestClass} {pl : Planned} {page : Page} {s : State} {c : Nat} {req : Request}
    {rest : List (Nat × Request)} {k : ErrKind}
    (h : s.head c req rest) (hg : gate s.reg.sess cls = some k) :
    accept cls pl page s = .next (turnedAway s c rest k .nothing) := by
  obtain ⟨h1, h2⟩ := h
  cases s
  simp_all [accept, answerError, respond, turnedAway, dropCaller]

theorem acceptUnsupported_head {s : State} {c : Nat} {req : Request} {rest : List (Nat × Request)} {info : Info}
    (h : s.head c req rest) : acceptUnsupported info s = .next (turnedAway s c rest .unsupported info) := by
  obtain ⟨h1, h2⟩ := h
  cases s
  simp_all [acceptUnsupported, answerError, respond, turnedAway, dropCaller]

/-- Everything an accept step can do: it starts the planned operation, or answers with an error. -/
theorem accept_next {cls : RequestClass} {pl : Planned} {page : Page} {s t : State}
    (h : accept cls pl page s = .next t) :
    ∃ c req rest, s.head c req rest ∧
      ((∃ fs a k, gate s.reg.sess cls = none ∧ pl = .plan fs a k ∧
          t = { started s c req rest fs a k with textPage := page }) ∨
        ∃ k info, t = turnedAway s c rest k info) := by
  have hh : ∃ c req rest, s.head c req rest := by
    unfold accept at h
    split at h
    · exact ⟨_, _, _, ‹_›, ‹_›⟩
    · cases h
  obtain ⟨c, req, rest, hh⟩ := hh
  refine ⟨c, req, rest, hh, ?_⟩
  cases hg : gate s.reg.sess cls with
  | some k => rw [accept_gateError hh hg] at h; cases h; exact .inr ⟨_, _, rfl⟩
  | none =>
    cases pl with
    | plan fs a k => rw [accept_start hh hg rfl] at h; cases h; exact .inl ⟨fs, a, k, rfl, rfl, rfl⟩
    | error k info => rw [accept_planError hh hg rfl] at h; cases h; exact .inr ⟨_, _, rfl⟩

theorem acceptUnsupported_next {info : Info} {s t : State} (h : acceptUnsupported info s = .next t) :
    ∃ c req rest, s.head c req rest ∧ t = turnedAway s c rest .unsupported info := by
  unfold acceptUnsupported at h
  split at h
  · rename_i c req rest h1 h2
    have hh : s.head c req rest := ⟨h1, h2⟩
    have := acceptUnsupported_head (info := info) hh
    refine ⟨c, req, rest, hh, ?_⟩
    cases h
    simpa [acceptUnsupported, h1, h2] using this
  · cases h

/-- With a request at the head of the queue an accept step goes on. -/
theorem accept_goes {cls : RequestClass} {pl : Planned} {page : Page} {s : State} {c : Nat} {req : Request}
    {rest : List (Nat × Request)} (h : s.head c req rest) : ∃ t, accept cls pl page s = .next t := by
  cases hg : gate s.reg.sess cls with
  | some k => exact ⟨_, accept_gateError h hg⟩
  | none =>
    cases pl with
    | plan fs a k => exact ⟨_, accept_start h hg rfl⟩
    | error k info => exact ⟨_, accept_planError h hg rfl⟩

/-! ## The controller -/

theorem onController_next {f : Controller → Controller} {s t : State} (h : onController f s = .next t) :
    t = { s with ctl := f s.ctl } := by
  simpa [onController] using h.symm

/-- Everything a delivery does: no bytes change nothing, and others are what the controller takes in next. -/
theorem deliver_nil (s : State) : deliver [] s = s := rfl

theorem deliver_bytes {bytes : List Byte} (hb : bytes ≠ []) (s : State) :
    deliver bytes s = { s with ctl := { s.ctl with rx := bytes, rxPos := .control } } := if_neg hb

/-- The frame of a cut command: no display byte, and nothing of what is still to be taken in. -/
@[simp] theorem cutShort_ram (c : Controller) (n : Nat) (b : Byte) : (c.cutShort n b).ram = c.ram := by
  simp only [Controller.cutShort, apply_ite Controller.ram, ite_self]

@[simp] theorem cutShort_rx (c : Controller) (n : Nat) (b : Byte) : (c.cutShort n b).rx = c.rx := by
  simp only [Controller.cutShort, apply_ite Controller.rx, ite_self]

@[simp] theorem cutShort_rxPos (c : Controller) (n : Nat) (b : Byte) : (c.cutShort n b).rxPos = c.rxPos := by
  simp only [Controller.cutShort, apply_ite Controller.rxPos, ite_self]

/-- A picture is dark with the display off, and the inverted or plain pixel with it on (R52). -/
theorem shown_off {c : Controller} (h : c.on = false) (x y : Nat) : c.shown x y = some false := by
  simp [Controller.shown, h]

theorem shown_on {c : Controller} (h : c.on = true) (x y : Nat) :
    c.shown x y = (c.pixel x y).map fun lit => lit ^^ c.inverted := by
  simp [Controller.shown, h]

end Sys2Proof.Machine
end

