-- ==== Sys2Proof/Laws/PerInstr.lean ====
section
/-! SUPPORT. A statement made for every instruction, one lemma for each constructor: the first byte of its words lies in its row of spec/opcode_table.json. -/

namespace Sys2Proof.Laws.RowByte

/-- The match and mask columns of an instruction's row. -/
def inRow (b : Byte) : Instr → Prop
  | .openSession .. => b &&& 0xFF = 0x01
  | .closeSession => b &&& 0xFF = 0x02
  | .clear => b &&& 0xFF = 0x03
  | .setText _ => b &&& 0xFF = 0x04
  | .setBitmap .. => b &&& 0xFF = 0x05
  | .setQrcode _ => b &&& 0xFF = 0x06
  | .setContrast _ => b &&& 0xFF = 0x07
  | .setInversion _ => b &&& 0xFF = 0x08
  | .reserved00 => b &&& 0xFF = 0x00
  | .reserved09FF _ => 0x09 ≤ b.toNat
  | .prefixSingleCommand => b &&& 0xFF = 0x80
  | .prefixCommandStream => b &&& 0xFF = 0x00
  | .prefixDataStream => b &&& 0xFF = 0x40
  | .displayOff => b &&& 0xFF = 0xAE
  | .setClockDiv _ => b &&& 0xFF = 0xD5
  | .setMuxRatio _ => b &&& 0xFF = 0xA8
  | .setDisplayOffset _ => b &&& 0xFF = 0xD3
  | .setStartLine _ => b &&& 0xC0 = 0x40
  | .chargePump _ => b &&& 0xFF = 0x8D
  | .segRemap _ => b &&& 0xFE = 0xA0
  | .comScanDir _ => b &&& 0xF7 = 0xC0
  | .setComPins _ => b &&& 0xFF = 0xDA
  | .setContrastCmd _ => b &&& 0xFF = 0x81
  | .setPrecharge _ => b &&& 0xFF = 0xD9
  | .setVcomh _ => b &&& 0xFF = 0xDB
  | .normalDisplay => b &&& 0xFF = 0xA6
  | .invertDisplay => b &&& 0xFF = 0xA7
  | .setMemMode _ => b &&& 0xFF = 0x20
  | .displayOn => b &&& 0xFF = 0xAF
  | .setColLo _ => b &&& 0xF0 = 0x00
  | .setColHi _ => b &&& 0xF8 = 0x10
  | .setPage _ => b &&& 0xF8 = 0xB0

/-- A well-formed instruction has words, and the first byte lies in its row. -/
def Statement (i : Instr) : Prop := i.wf = true → ∃ b bs, encode i = b :: bs ∧ inRow b i

theorem openSession (addr : Option Int) (width height : Int) (mode : Mode) (bus : Bool) (font : Option (List Byte)) :
    Statement (.openSession addr width height mode bus font) := fun _ => ⟨_, _, rfl, rfl⟩
theorem closeSession : Statement .closeSession := fun _ => ⟨_, _, rfl, rfl⟩
theorem clear : Statement .clear := fun _ => ⟨_, _, rfl, rfl⟩
theorem setText (text : List Byte) : Statement (.setText text) := fun _ => ⟨_, _, rfl, rfl⟩
theorem setBitmap (bytes : List Byte) (w h : Int) : Statement (.setBitmap bytes w h) := fun _ => ⟨_, _, rfl, rfl⟩
theorem setQrcode (bytes : List Byte) : Statement (.setQrcode bytes) := fun _ => ⟨_, _, rfl, rfl⟩
theorem setContrast (v : Int) : Statement (.setContrast v) := fun _ => ⟨_, _, rfl, rfl⟩
theorem setInversion (b : Bool) : Statement (.setInversion b) := fun _ => ⟨_, _, rfl, rfl⟩
theorem reserved00 : Statement .reserved00 := fun _ => ⟨_, _, rfl, rfl⟩
theorem reserved09FF (op : Byte) : Statement (.reserved09FF op) := fun h => ⟨_, _, rfl, of_decide_eq_true (p := 9 ≤ op.toNat) h⟩
theorem prefixSingleCommand : Statement .prefixSingleCommand := fun _ => ⟨_, _, rfl, rfl⟩
theorem prefixCommandStream : Statement .prefixCommandStream := fun _ => ⟨_, _, rfl, rfl⟩
theorem prefixDataStream : Statement .prefixDataStream := fun _ => ⟨_, _, rfl, rfl⟩
theorem displayOff : Statement .displayOff := fun _ => ⟨_, _, rfl, rfl⟩
theorem setClockDiv (v : Byte) : Statement (.setClockDiv v) := fun _ => ⟨_, _, rfl, rfl⟩
theorem setMuxRatio (v : Byte) : Statement (.setMuxRatio v) := fun _ => ⟨_, _, rfl, rfl⟩
theorem setDisplayOffset (v : Byte) : Statement (.setDisplayOffset v) := fun _ => ⟨_, _, rfl, rfl⟩
theorem startLine_row : ∀ l : BitVec 6, (0x40 ||| l.zeroExtend 8 : Byte) &&& 0xC0 = 0x40 := by decide
theorem setStartLine (l : BitVec 6) : Statement (.setStartLine l) := fun _ => ⟨_, _, rfl, startLine_row l⟩
theorem chargePump (v : Byte) : Statement (.chargePump v) := fun _ => ⟨_, _, rfl, rfl⟩
theorem segRemap (r : Bool) : Statement (.segRemap r) := fun _ => ⟨_, _, rfl, by cases r <;> rfl⟩
theorem comScanDir (d : Bool) : Statement (.comScanDir d) := fun _ => ⟨_, _, rfl, by cases d <;> rfl⟩
theorem setComPins (v : Byte) : Statement (.setComPins v) := fun _ => ⟨_, _, rfl, rfl⟩
theorem setContrastCmd (v : Byte) : Statement (.setContrastCmd v) := fun _ => ⟨_, _, rfl, rfl⟩
theorem setPrecharge (v : Byte) : Statement (.setPrecharge v) := fun _ => ⟨_, _, rfl, rfl⟩
theorem setVcomh (v : Byte) : Statement (.setVcomh v) := fun _ => ⟨_, _, rfl, rfl⟩
theorem normalDisplay : Statement .normalDisplay := fun _ => ⟨_, _, rfl, rfl⟩
theorem invertDisplay : Statement .invertDisplay := fun _ => ⟨_, _, rfl, rfl⟩
theorem setMemMode (m : Byte) : Statement (.setMemMode m) := fun _ => ⟨_, _, rfl, rfl⟩
theorem displayOn : Statement .displayOn := fun _ => ⟨_, _, rfl, rfl⟩
theorem colLo_row : ∀ n : BitVec 4, (0x00 ||| n.zeroExtend 8 : Byte) &&& 0xF0 = 0x00 := by decide
theorem setColLo (n : BitVec 4) : Statement (.setColLo n) := fun _ => ⟨_, _, rfl, colLo_row n⟩
theorem colHi_row : ∀ n : BitVec 3, (0x10 ||| n.zeroExtend 8 : Byte) &&& 0xF8 = 0x10 := by decide
theorem setColHi (n : BitVec 3) : Statement (.setColHi n) := fun _ => ⟨_, _, rfl, colHi_row n⟩
theorem page_row : ∀ n : BitVec 3, (0xB0 ||| n.zeroExtend 8 : Byte) &&& 0xF8 = 0xB0 := by decide
theorem setPage (n : Page) : Statement (.setPage n) := fun _ => ⟨_, _, rfl, page_row n⟩

end Sys2Proof.Laws.RowByte
end

