-- ==== Sys2Proof/Laws/Step.lean ====
section
/-! SUPPORT. What exec and step can do: one inversion lemma for each, from which invariants follow without unfolding either. -/

namespace Sys2Proof.Machine

/-! ## Which space a decoder answers from -/

/-- `d` gives no instruction but a request. -/
def Decoded.onlyRequests (d : Decoded) : Prop := ∀ i, d = .ok i → i.port = .request

theorem onlyRequests_ite {p : Prop} [Decidable p] {d e : Decoded} (hd : Decoded.onlyRequests d)
    (he : Decoded.onlyRequests e) : Decoded.onlyRequests (if p then d else e) := by
  split_ifs <;> assumption

theorem onlyRequests_reject (r : Reject) : Decoded.onlyRequests (.reject r) := fun _ h => by cases h

theorem onlyRequests_ok {i : Instr} (h : i.port = .request) : Decoded.onlyRequests (.ok i) := fun _ e => by
  cases e; exact h

theorem decodeOpen_onlyRequests (bs : List Byte) : Decoded.onlyRequests (decodeOpen bs) := by
  unfold decodeOpen
  split
  · refine onlyRequests_ite (onlyRequests_reject _) (onlyRequests_ite (onlyRequests_reject _) (onlyRequests_ite ?_
      (onlyRequests_ite (onlyRequests_ok rfl) (onlyRequests_reject _))))
    split
    · exact onlyRequests_ite (onlyRequests_ok rfl) (onlyRequests_reject _)
    · exact onlyRequests_reject _
  · exact onlyRequests_reject _

theorem decodeBare_onlyRequests {i : Instr} (h : i.port = .request) (bs : List Byte) :
    Decoded.onlyRequests (decodeBare i bs) := by
  cases bs with
  | nil => exact onlyRequests_ok h
  | cons b bs => exact onlyRequests_reject _

theorem decodeString_onlyRequests {k : List Byte → Instr} (h : ∀ bs, (k bs).port = .request) (bs : List Byte) :
    Decoded.onlyRequests (decodeString k bs) := by
  unfold decodeString
  split
  · exact onlyRequests_ite (onlyRequests_ok (h _)) (onlyRequests_reject _)
  · exact onlyRequests_reject _

theorem decodeMessage_onlyRequests (msg : List Byte) : Decoded.onlyRequests (decodeMessage msg) := by
  unfold decodeMessage
  split
  · exact onlyRequests_reject _
  · refine onlyRequests_ite (onlyRequests_ok rfl) (onlyRequests_ite (decodeOpen_onlyRequests _)
      (onlyRequests_ite (decodeBare_onlyRequests rfl _) (onlyRequests_ite (decodeBare_onlyRequests rfl _)
      (onlyRequests_ite (decodeString_onlyRequests (fun _ => rfl) _) (onlyRequests_ite ?_
      (onlyRequests_ite (decodeString_onlyRequests (fun _ => rfl) _) (onlyRequests_ite ?_
      (onlyRequests_ite ?_ (onlyRequests_ok rfl)))))))))
    · unfold decodeBitmap
      split
      · exact decodeString_onlyRequests (fun _ => rfl) _
      · exact onlyRequests_reject _
    · unfold decodeContrast
      split
      · exact onlyRequests_ok rfl
      · exact onlyRequests_reject _
    · unfold decodeInversion
      split
      · exact onlyRequests_ite (onlyRequests_ok rfl) (onlyRequests_ite (onlyRequests_ok rfl) (onlyRequests_reject _))
      · exact onlyRequests_reject _

theorem decodeMessage_port {msg : List Byte} {i : Instr} (h : decodeMessage msg = .ok i) : i.port = .request :=
  decodeMessage_onlyRequests msg i h

theorem decodeRequest_port {req : Request} {i : Instr} (h : decodeRequest req = .ok i) : i.port = .request := by
  cases req with
  | serial msg => exact decodeMessage_port h
  | record j =>
    simp only [decodeRequest] at h
    split_ifs at h with hp
    cases h; exact hp

theorem decodeControl_port {b : Byte} {i : Instr} (h : decodeControl b = .ok i) : i.port = .control := by
  unfold decodeControl at h
  split_ifs at h <;> cases h <;> rfl

/-- `d` gives no instruction but a controller command. -/
def CommandDecoded.onlyCommands (d : CommandDecoded) : Prop := ∀ i rest, d = .instr i rest → i.port = .command

theorem onlyCommands_ite {p : Prop} [Decidable p] {d e : CommandDecoded} (hd : CommandDecoded.onlyCommands d)
    (he : CommandDecoded.onlyCommands e) : CommandDecoded.onlyCommands (if p then d else e) := by
  split_ifs <;> assumption

theorem onlyCommands_instr {i : Instr} (h : i.port = .command) (bs : List Byte) :
    CommandDecoded.onlyCommands (.instr i bs) := fun _ _ e => by cases e; exact h

theorem oneParameter_onlyCommands {k : Byte → Instr} (h : ∀ v, (k v).port = .command) (b : Byte) (bs : List Byte) :
    CommandDecoded.onlyCommands (oneParameter b k bs) := by
  cases bs with
  | nil => exact fun _ _ e => by cases e
  | cons v bs => exact onlyCommands_instr (h v) bs

theorem twoParameters_onlyCommands (k : Byte → Byte → ExtraCommand) (b : Byte) (bs : List Byte) :
    CommandDecoded.onlyCommands (twoParameters b k bs) := by
  unfold twoParameters
  split <;> exact fun _ _ e => by cases e

theorem decodeCommand_onlyCommands (b : Byte) (bs : List Byte) : CommandDecoded.onlyCommands (decodeCommand b bs) := by
  unfold decodeCommand
  repeat' apply onlyCommands_ite
  all_goals first
    | exact onlyCommands_instr rfl _
    | exact oneParameter_onlyCommands (fun _ => rfl) _ _
    | exact twoParameters_onlyCommands _ _ _
    | exact fun _ _ e => by cases e

theorem decodeCommand_port {b : Byte} {bs rest : List Byte} {i : Instr} (h : decodeCommand b bs = .instr i rest) :
    i.port = .command := decodeCommand_onlyCommands b bs i rest h

/-! ## exec -/

/-- A request's meaning is an accept step: it starts an operation or turns the request away. -/
theorem exec_request_next {i : Instr} {s t : State} (hi : i.port = .request) (h : exec i s = .next t) :
    ∃ c req rest, s.head c req rest ∧
      ((∃ fs a k page, t = { started s c req rest fs a k with textPage := page } ∧
          ((∀ text, i ≠ .setText text) → page = s.textPage)) ∨
        ∃ k info, t = turnedAway s c rest k info) := by
  have key : ∀ {cls pl page}, accept cls pl page s = .next t → ((∀ text, i ≠ .setText text) → page = s.textPage) →
      ∃ c req rest, s.head c req rest ∧
      ((∃ fs a k page, t = { started s c req rest fs a k with textPage := page } ∧
          ((∀ text, i ≠ .setText text) → page = s.textPage)) ∨
        ∃ k info, t = turnedAway s c rest k info) := by
    intro cls pl page h hp
    obtain ⟨c, req, rest, hh, h | h⟩ := accept_next h
    · obtain ⟨fs, a, k, -, -, rfl⟩ := h
      exact ⟨c, req, rest, hh, .inl ⟨fs, a, k, page, rfl, hp⟩⟩
    · exact ⟨c, req, rest, hh, .inr h⟩
  cases i with
  | setText text => exact key (by simpa only [exec, execSetText] using h) fun hp => absurd rfl (hp text)
  | reserved00 =>
    obtain ⟨c, req, rest, hh, ht⟩ := acceptUnsupported_next h
    exact ⟨c, req, rest, hh, .inr ⟨_, _, ht⟩⟩
  | reserved09FF op =>
    obtain ⟨c, req, rest, hh, ht⟩ := acceptUnsupported_next h
    exact ⟨c, req, rest, hh, .inr ⟨_, _, ht⟩⟩
  | openSession => exact key (by simpa only [exec, execOpen] using h) fun _ => rfl
  | closeSession => exact key (by simpa only [exec, execClose] using h) fun _ => rfl
  | clear => exact key (by simpa only [exec, execClear] using h) fun _ => rfl
  | setBitmap => exact key (by simpa only [exec, execSetBitmap] using h) fun _ => rfl
  | setQrcode => exact key (by simpa only [exec, execSetQrcode] using h) fun _ => rfl
  | setContrast => exact key (by simpa only [exec, execSetContrast] using h) fun _ => rfl
  | setInversion => exact key (by simpa only [exec, execSetInversion] using h) fun _ => rfl
  | _ => cases hi

/-- With a request at the head of the queue, a request's meaning goes on. -/
theorem exec_request_goes {i : Instr} {s : State} {c : Nat} {req : Request} {rest : List (Nat × Request)}
    (hi : i.port = .request) (h : s.head c req rest) : ∃ t, exec i s = .next t := by
  cases i with
  | reserved00 => simpa only [exec, execReserved00] using ⟨_, acceptUnsupported_head h⟩
  | reserved09FF op => exact ⟨_, acceptUnsupported_head h⟩
  | openSession => simpa only [exec, execOpen] using accept_goes h
  | closeSession => simpa only [exec, execClose] using accept_goes h
  | clear => simpa only [exec, execClear] using accept_goes h
  | setText => simpa only [exec, execSetText] using accept_goes h
  | setBitmap => simpa only [exec, execSetBitmap] using accept_goes h
  | setQrcode => simpa only [exec, execSetQrcode] using accept_goes h
  | setContrast => simpa only [exec, execSetContrast] using accept_goes h
  | setInversion => simpa only [exec, execSetInversion] using accept_goes h
  | _ => cases hi

/-- A controller row changes the controller only, and neither its display memory nor what it has to take in. -/
theorem exec_frame_next {i : Instr} {s t : State} (hi : i.port ≠ .request) (h : exec i s = .next t) :
    ∃ c, t = { s with ctl := c } ∧ c.ram = s.ctl.ram ∧ c.rx = s.ctl.rx ∧
      (i.port = .command → c.rxPos = s.ctl.rxPos) := by
  have key : ∀ {f : Controller → Controller}, onController f s = .next t →
      ((f s.ctl).ram = s.ctl.ram ∧ (f s.ctl).rx = s.ctl.rx ∧
        (i.port = .command → (f s.ctl).rxPos = s.ctl.rxPos)) →
      ∃ c, t = { s with ctl := c } ∧ c.ram = s.ctl.ram ∧ c.rx = s.ctl.rx ∧
        (i.port = .command → c.rxPos = s.ctl.rxPos) :=
    fun h hf => ⟨_, onController_next h, hf⟩
  cases i with
  | setMemMode m =>
    simp only [exec, execSetMemMode] at h
    split at h
    · exact key h ⟨rfl, rfl, fun _ => rfl⟩
    · cases h
  | prefixSingleCommand => exact key (by simpa only [exec, execPrefixSingleCommand] using h) ⟨rfl, rfl, by simp [Instr.port]⟩
  | prefixCommandStream => exact key (by simpa only [exec, execPrefixCommandStream] using h) ⟨rfl, rfl, by simp [Instr.port]⟩
  | prefixDataStream => exact key (by simpa only [exec, execPrefixDataStream] using h) ⟨rfl, rfl, by simp [Instr.port]⟩
  | displayOff => exact key (by simpa only [exec, execDisplayOff] using h) ⟨rfl, rfl, fun _ => rfl⟩
  | setClockDiv => exact key (by simpa only [exec, execSetClockDiv] using h) ⟨rfl, rfl, fun _ => rfl⟩
  | setMuxRatio => exact key (by simpa only [exec, execSetMuxRatio] using h) ⟨rfl, rfl, fun _ => rfl⟩
  | setDisplayOffset => exact key (by simpa only [exec, execSetDisplayOffset] using h) ⟨rfl, rfl, fun _ => rfl⟩
  | setStartLine => exact key (by simpa only [exec, execSetStartLine] using h) ⟨rfl, rfl, fun _ => rfl⟩
  | chargePump => exact key (by simpa only [exec, execChargePump] using h) ⟨rfl, rfl, fun _ => rfl⟩
  | segRemap => exact key (by simpa only [exec, execSegRemap] using h) ⟨rfl, rfl, fun _ => rfl⟩
  | comScanDir => exact key (by simpa only [exec, execComScanDir] using h) ⟨rfl, rfl, fun _ => rfl⟩
  | setComPins => exact key (by simpa only [exec, execSetComPins] using h) ⟨rfl, rfl, fun _ => rfl⟩
  | setContrastCmd => exact key (by simpa only [exec, execSetContrastCmd] using h) ⟨rfl, rfl, fun _ => rfl⟩
  | setPrecharge => exact key (by simpa only [exec, execSetPrecharge] using h) ⟨rfl, rfl, fun _ => rfl⟩
  | setVcomh => exact key (by simpa only [exec, execSetVcomh] using h) ⟨rfl, rfl, fun _ => rfl⟩
  | normalDisplay => exact key (by simpa only [exec, execNormalDisplay] using h) ⟨rfl, rfl, fun _ => rfl⟩
  | invertDisplay => exact key (by simpa only [exec, execInvertDisplay] using h) ⟨rfl, rfl, fun _ => rfl⟩
  | displayOn => exact key (by simpa only [exec, execDisplayOn] using h) ⟨rfl, rfl, fun _ => rfl⟩
  | setColLo => exact key (by simpa only [exec, execSetColLo] using h) ⟨rfl, rfl, fun _ => rfl⟩
  | setColHi => exact key (by simpa only [exec, execSetColHi] using h) ⟨rfl, rfl, fun _ => rfl⟩
  | setPage => exact key (by simpa only [exec, execSetPage] using h) ⟨rfl, rfl, fun _ => rfl⟩
  | _ => exact absurd rfl hi

/-! ## The agents' steps -/

/-- Everything the engine's step can do. -/
inductive EngineStep (s : State) : State → Prop where
  | stay : EngineStep s s
  | start (c : Nat) (req : Request) (rest : List (Nat × Request)) (fs : List Frame) (a : BusAddr) (k : Commit) (p : Page)
      (i : Instr) (hh : s.head c req rest) (hd : decodeRequest req = .ok i)
      (hx : exec i s = .next { started s c req rest fs a k with textPage := p }) :
      EngineStep s { started s c req rest fs a k with textPage := p }
  | turnAway (c : Nat) (req : Request) (rest : List (Nat × Request)) (k : ErrKind) (info : Info)
      (hh : s.head c req rest) : EngineStep s (turnedAway s c rest k info)
  | emitOk (op : Operation) (f : Frame) (as : List Answer) (ho : s.inflight = some op)
      (hf : op.frames[s.seq]? = some f) (ha : s.answers = .ok :: as) :
      EngineStep s (emitOk op f { s with answers := as })
  | emitFail (op : Operation) (f : Frame) (r : TransportReason) (k : Nat) (as : List Answer)
      (ho : s.inflight = some op) (hf : op.frames[s.seq]? = some f) (ha : s.answers = .fail r k :: as) :
      EngineStep s (emitFail op f r k { s with answers := as })
  | complete (op : Operation) (ho : s.inflight = some op) (hs : s.seq = op.frames.length) :
      EngineStep s (completeStep op s)

theorem engineStep_next {s t : State} (h : engineStep s = .next t) : EngineStep s t := by
  unfold engineStep at h
  split at h
  · rename_i hi
    unfold acceptStep at h
    split at h
    · cases h; exact .stay
    · rename_i c req rest hq
      have hh : s.head c req rest := ⟨hi, hq⟩
      split at h
      · rename_i i hd
        obtain ⟨c', req', rest', hh', h' | h'⟩ := exec_request_next (decodeRequest_port hd) h
        · obtain ⟨fs, a, k, page, rfl, -⟩ := h'
          have : (c, req) :: rest = (c', req') :: rest' := hh.2.symm.trans hh'.2
          cases this
          exact .start c req rest fs a k page i hh hd h
        · obtain ⟨k, info, rfl⟩ := h'
          exact .turnAway _ _ _ _ _ hh'
      · obtain ⟨c', req', rest', hh', rfl⟩ := acceptUnsupported_next h
        exact .turnAway _ _ _ _ _ hh'
  · rename_i op ho
    split at h
    · rename_i f hf
      cases h
      unfold emitStep
      split
      · exact .stay
      · exact .emitOk op f _ ho hf ‹_›
      · exact .emitFail op f _ _ _ ho hf ‹_›
    · split_ifs at h with hs
      cases h
      exact .complete op ho hs

/-- Everything the controller's step can do: the controller changes, and the count of free bytes drawn. -/
theorem controllerStep_next {s t : State} (h : controllerStep s = .next t) : ∃ c n, t = { s with ctl := c, draws := n } := by
  unfold controllerStep at h
  split at h
  · rename_i i c hf
    have hi : i.port ≠ .request := by
      unfold Controller.fetch at hf
      split at hf
      · cases hf
      · split at hf
        · split at hf
          · rename_i hd; cases hf; rw [decodeControl_port hd]; decide
          · cases hf
        · unfold fetchCommand at hf
          split at hf
          · rename_i hd; cases hf; rw [decodeCommand_port hd]; decide
          · cases hf
          · cases hf
        · cases hf
        · split at hf
          · cases hf
          · unfold fetchCommand at hf
            split at hf
            · rename_i hd; cases hf; rw [decodeCommand_port hd]; decide
            · cases hf
            · cases hf
        · cases hf
    obtain ⟨c', rfl, -⟩ := exec_frame_next hi h
    exact ⟨c', s.draws, rfl⟩
  · cases h; exact ⟨_, s.draws, rfl⟩
  · cases h; exact ⟨_, _, rfl⟩
  · cases h

/-- Everything the machine's own step can do. -/
theorem internalStep_next {s t : State} (h : internalStep s = .next t) :
    (s.ctl.rx = [] ∧ EngineStep s t) ∨
    (s.ctl.rx ≠ [] ∧ controllerStep s = .next t ∧ ∃ c n, t = { s with ctl := c, draws := n }) := by
  unfold internalStep at h
  split_ifs at h with hr
  · exact .inl ⟨hr, engineStep_next h⟩
  · exact .inr ⟨hr, h, controllerStep_next h⟩

/-- Everything a step can do. -/
theorem step_next {s t : State} (h : step s = .next t) :
    (∃ ts, (s.turns = [] ∧ ts = [] ∨ s.turns = .run :: ts ∨ ∃ c req us, s.turns = .submit c req :: us ∧ ts = s.turns ∧ c ∈ s.waiting) ∧
      internalStep { s with turns := ts } = .next t) ∨
    (∃ c req ts, s.turns = .submit c req :: ts ∧ c < s.par.nCallers ∧ c ∉ s.waiting ∧
      t = submit c req { s with turns := ts }) ∨
    (∃ cut ts, s.turns = .blockReset cut :: ts ∧ t = blockReset cut { s with turns := ts }) ∨
    (∃ ts, s.turns = .panelReset :: ts ∧ t = panelReset { s with turns := ts }) := by
  unfold step at h
  split at h
  · rename_i ht
    refine .inl ⟨[], .inl ⟨ht, rfl⟩, ?_⟩
    rw [← h]; congr 1; cases s; simp_all
  · rename_i ts ht
    exact .inl ⟨ts, .inr (.inl ht), h⟩
  · rename_i c req ts ht
    split_ifs at h with hc hw
    · refine .inl ⟨s.turns, .inr (.inr ⟨c, req, ts, ht, rfl, hw⟩), ?_⟩
      exact h
    · cases h; exact .inr (.inl ⟨c, req, ts, ht, hc, hw, rfl⟩)
  · rename_i cut ts ht
    cases h; exact .inr (.inr (.inl ⟨cut, ts, ht, rfl⟩))
  · rename_i ts ht
    cases h; exact .inr (.inr (.inr ⟨ts, ht, rfl⟩))

/-! ## Block resets -/

/-- What a block reset leaves, whether or not a transport call was out. -/
theorem blockReset_cases (cut : Option Nat) (s : State) :
    blockReset cut s = resetBlock s ∨
    ∃ k op f, cut = some k ∧ s.inflight = some op ∧ op.frames[s.seq]? = some f ∧ s.ctl.rx = [] ∧
      blockReset cut s = resetBlock (toPanel op.addr (f.take k)
        { s with trace := s.trace ++ [.abandoned op.caller op.addr f] }) := by
  unfold blockReset
  split
  · rename_i k op f ho
    right
    unfold State.outstanding at ho
    split at ho
    · cases ho
    · rename_i op' hi
      split_ifs at ho with hr
      simp only [Option.map_eq_some_iff, Prod.mk.injEq] at ho
      obtain ⟨f', hf, rfl, rfl⟩ := ho
      exact ⟨k, _, _, rfl, hi, hf, hr, rfl⟩
  · exact .inl rfl

end Sys2Proof.Machine
end

