-- ==== Sys2Proof/Machine/Assembler.lean ====
section
/-! DEFINITION. The spec's written form of requests and frames (R77). No step reads it. -/

namespace Sys2Proof.Machine

/-- One hexadecimal digit. -/
def hexDigit (n : Nat) : Char := ("0123456789ABCDEF".toList).getD n '0'

/-- Two hexadecimal digits. -/
def hexPair (b : Byte) : List Char := [hexDigit (b.toNat / 16), hexDigit (b.toNat % 16)]

/-- `0xHH`. -/
def hexByte (b : Byte) : List Char := ['0', 'x'] ++ hexPair b

/-- A byte list, `[0x00, 0xB0, 0x00, 0x10]`. -/
def byteList (bs : List Byte) : List Char :=
  ['['] ++ ((bs.map hexByte).intersperse [',', ' ']).flatten ++ [']']

/-- One byte of a text operand, with C escapes. -/
def textChar (b : Byte) : List Char :=
  if b = 0x0A then ['\\', 'n']
  else if b = 0x22 ∨ b = 0x5C then ['\\', Char.ofNat b.toNat]
  else if 0x20 ≤ b.toNat ∧ b.toNat ≤ 0x7E then [Char.ofNat b.toNat]
  else ['\\', 'x'] ++ hexPair b

/-- A decimal integer. -/
def decimal (v : Int) : List Char :=
  (if v < 0 then ['-'] else []) ++ Nat.toDigits 10 v.natAbs

/-- The assembler line of a request (R77); the reserved opcodes and the controller's rows have none. -/
def Instr.asm : Instr → Option (List Char)
  | .openSession addr width height mode bus font => some
      ("OPEN ".toList ++ (match addr with
          | none => []
          | some a => "addr=".toList ++ decimal a ++ ", ".toList)
        ++ "width=".toList ++ decimal width ++ ", height=".toList ++ decimal height
        ++ (match mode with
            | .software => ", mode=SW".toList
            | .accelerated => ", mode=ACC".toList)
        ++ (if bus then ", bus=1".toList else ", bus=0".toList)
        ++ (match font with
            | none => []
            | some f => ", font=".toList ++ byteList f))
  | .closeSession => some "CLOSE".toList
  | .clear => some "CLEAR".toList
  | .setText text => some ("TEXT \"".toList ++ (text.map textChar).flatten ++ ['"'])
  | .setBitmap bytes w h =>
    some ("BITMAP ".toList ++ decimal w ++ ", ".toList ++ decimal h ++ ", ".toList ++ byteList bytes)
  | .setQrcode bytes => some ("QRCODE ".toList ++ byteList bytes)
  | .setContrast v => some ("CONTRAST ".toList ++ decimal v)
  | .setInversion b => some (if b then "INVERT 1".toList else "INVERT 0".toList)
  | _ => none

/-- The API names of the requests, aliases of their mnemonics (R77). -/
def Instr.apiName : Instr → Option String
  | .openSession .. => some "open"
  | .closeSession => some "close"
  | .clear => some "clear"
  | .setText _ => some "set_text"
  | .setBitmap .. => some "set_bitmap"
  | .setQrcode _ => some "set_qrcode"
  | .setContrast _ => some "set_contrast"
  | .setInversion _ => some "set_inversion"
  | _ => none

end Sys2Proof.Machine
end

