-- ==== Sys2Proof/Tests/Slice0.lean ====
section
/-! SUPPORT. Tests of the model on values written out from the spec, and for every statement with hypotheses a concrete state and operands that meet them. -/

namespace Sys2Proof.Tests

open Sys2Proof.Machine

/-! ## Well-formedness: one ill-formed term for each check -/

theorem test_wf_refuses_address_above_a_byte : (Instr.openSession (some 256) 128 64 .software true none).wf = false := by decide
theorem test_wf_refuses_negative_address : (Instr.openSession (some (-1)) 128 64 .software true none).wf = false := by decide
theorem test_wf_refuses_width : (Instr.openSession none 256 64 .software true none).wf = false := by decide
theorem test_wf_refuses_height : (Instr.openSession none 128 (-1) .software true none).wf = false := by decide
theorem test_wf_refuses_font_length : (Instr.openSession none 128 64 .software true (some (zeros 65536))).wf = false := by
  rw [Instr.wf, Option.all_some, zeros, List.length_replicate]; decide
theorem test_wf_refuses_text_length : (Instr.setText (zeros (2 ^ 32))).wf = false := by
  rw [Instr.wf, zeros, List.length_replicate]; decide
theorem test_wf_refuses_bitmap_width : (Instr.setBitmap [] 65536 8).wf = false := by decide
theorem test_wf_refuses_bitmap_height : (Instr.setBitmap [] 8 (-8)).wf = false := by decide
theorem test_wf_refuses_bitmap_length : (Instr.setBitmap (zeros (2 ^ 32)) 8 8).wf = false := by
  rw [Instr.wf, zeros, List.length_replicate]; decide
theorem test_wf_refuses_payload_length : (Instr.setQrcode (zeros (2 ^ 32))).wf = false := by
  rw [Instr.wf, zeros, List.length_replicate]; decide
theorem test_wf_refuses_contrast_above : (Instr.setContrast (2 ^ 31)).wf = false := by decide
theorem test_wf_refuses_contrast_below : (Instr.setContrast (-(2 ^ 31) - 1)).wf = false := by decide
theorem test_wf_refuses_assigned_as_reserved : (Instr.reserved09FF 0x08).wf = false := by decide
theorem test_wf_admits_least_contrast : (Instr.setContrast (-(2 ^ 31))).wf = true := by decide

/-! ## Decoding: every constructor's bytes, written out from R53, R59 and R65 to R73 -/

theorem test_decode_open :
    decodeMessage [0x01, 0x3D, 0x80, 0x20, 0x02] = .ok (.openSession (some 61) 128 32 .software true none) := by decide
theorem test_decode_open_font :
    decodeMessage [0x01, 0x00, 0x80, 0x40, 0x0F, 0x02, 0x00, 0x11, 0x22]
      = .ok (.openSession none 128 64 .accelerated true (some [0x11, 0x22])) := by decide
theorem test_decode_open_font_short :
    decodeMessage [0x01, 0x00, 0x80, 0x40, 0x0F, 0x02, 0x00, 0x11] = .reject .wrongLength := by decide
theorem test_decode_open_flag : decodeMessage [0x01, 0x00, 0x80, 0x40, 0x1A] = .reject .reservedFlag := by decide
theorem test_decode_open_address :
    decodeMessage [0x01, 0x3C, 0x80, 0x40, 0x0A] = .reject .addressNotZero := by decide
theorem test_decode_close : decodeMessage [0x02] = .ok .closeSession := by decide
theorem test_decode_clear : decodeMessage [0x03] = .ok .clear := by decide
theorem test_decode_clear_trailing : decodeMessage [0x03, 0x00] = .reject .wrongLength := by decide
theorem test_decode_text :
    decodeMessage [0x04, 0x03, 0x00, 0x00, 0x00, 0x41, 0x0A, 0x42] = .ok (.setText [0x41, 0x0A, 0x42]) := by decide
theorem test_decode_bitmap :
    decodeMessage [0x05, 0x02, 0x00, 0x10, 0x00, 0x04, 0x00, 0x00, 0x00, 0x01, 0x02, 0x03, 0x04]
      = .ok (.setBitmap [0x01, 0x02, 0x03, 0x04] 2 16) := by decide
theorem test_decode_qrcode : decodeMessage [0x06, 0x01, 0x00, 0x00, 0x00, 0xFF] = .ok (.setQrcode [0xFF]) := by decide
theorem test_decode_contrast_negative : decodeMessage [0x07, 0xFF, 0xFF, 0xFF, 0xFF] = .ok (.setContrast (-1)) := by decide
theorem test_decode_contrast_256 : decodeMessage [0x07, 0x00, 0x01, 0x00, 0x00] = .ok (.setContrast 256) := by decide
theorem test_decode_contrast_short : decodeMessage [0x07, 0x00, 0x00, 0x00] = .reject .wrongLength := by decide
theorem test_decode_inversion : decodeMessage [0x08, 0x01] = .ok (.setInversion true) := by decide
theorem test_decode_inversion_boolean : decodeMessage [0x08, 0x02] = .reject .badBoolean := by decide
theorem test_decode_reserved00 : decodeMessage [0x00] = .ok .reserved00 := by decide
theorem test_decode_reserved_first : decodeMessage [0x09] = .ok (.reserved09FF 0x09) := by decide
theorem test_decode_reserved_last : decodeMessage [0xFF, 0x01] = .ok (.reserved09FF 0xFF) := by decide
theorem test_decode_empty : decodeMessage [] = .reject .emptyMessage := by decide
theorem test_decode_controls :
    decodeControl 0x80 = .ok .prefixSingleCommand ∧ decodeControl 0x00 = .ok .prefixCommandStream ∧
    decodeControl 0x40 = .ok .prefixDataStream ∧ decodeControl 0xC0 = .reject (.unknownControl 0xC0) := by decide
theorem test_decode_commands_bare :
    decodeCommand 0xAE [] = .instr .displayOff [] ∧ decodeCommand 0xAF [] = .instr .displayOn [] ∧
    decodeCommand 0xA6 [] = .instr .normalDisplay [] ∧ decodeCommand 0xA7 [] = .instr .invertDisplay [] ∧
    decodeCommand 0x40 [] = .instr (.setStartLine 0) [] ∧ decodeCommand 0x7F [] = .instr (.setStartLine 63) [] := by decide
theorem test_decode_commands_orientation :
    decodeCommand 0xA0 [] = .instr (.segRemap false) [] ∧ decodeCommand 0xA1 [] = .instr (.segRemap true) [] ∧
    decodeCommand 0xC0 [] = .instr (.comScanDir false) [] ∧ decodeCommand 0xC8 [] = .instr (.comScanDir true) [] := by decide
theorem test_decode_commands_pointers :
    decodeCommand 0x0F [] = .instr (.setColLo 15) [] ∧ decodeCommand 0x17 [] = .instr (.setColHi 7) [] ∧
    decodeCommand 0xB5 [] = .instr (.setPage 5) [] ∧ decodeCommand 0x18 [] = .reject (.unknownCommand 0x18) ∧
    decodeCommand 0xB8 [] = .reject (.unknownCommand 0xB8) := by decide
theorem test_decode_commands_parameter :
    decodeCommand 0xD5 [0x80] = .instr (.setClockDiv 0x80) [] ∧ decodeCommand 0xA8 [0x3F] = .instr (.setMuxRatio 0x3F) [] ∧
    decodeCommand 0xD3 [0x00] = .instr (.setDisplayOffset 0x00) [] ∧ decodeCommand 0x8D [0x14] = .instr (.chargePump 0x14) [] ∧
    decodeCommand 0xDA [0x12] = .instr (.setComPins 0x12) [] ∧ decodeCommand 0x81 [0x7F] = .instr (.setContrastCmd 0x7F) [] := by
  decide
theorem test_decode_commands_parameter_rest :
    decodeCommand 0xD9 [0xF1, 0xDB] = .instr (.setPrecharge 0xF1) [0xDB] ∧
    decodeCommand 0xDB [0x40, 0xA6] = .instr (.setVcomh 0x40) [0xA6] ∧
    decodeCommand 0x20 [0x00, 0xAF] = .instr (.setMemMode 0x00) [0xAF] ∧
    decodeCommand 0x81 [] = .reject (.missingParameter 0x81) ∧ decodeCommand 0xE3 [] = .reject (.unknownCommand 0xE3) := by
  decide
theorem test_decode_requests : decodeRequest (.serial [0x03]) = .ok .clear ∧ decodeRequest (.record .reserved00) = .ok .reserved00 ∧
    decodeRequest (.serial [0x03, 0x00]) = .reject .wrongLength ∧ decodeRequest (.record .displayOn) = .reject .notARequest := by decide
theorem test_table_words :
    decodeTableWord 8 0x03 = some .clear ∧ decodeTableWord 16 0x0108 = some (.setInversion true) ∧
    decodeTableWord 8 0x80 = some .prefixSingleCommand ∧ decodeTableWord 8 0xB3 = some (.setPage 3) ∧
    decodeTableWord 8 0xFF = some (.reserved09FF 0xFF) := by decide

/-! ## The written form (R77) -/

theorem test_asm_text : Instr.asm (.setText [0x41, 0x0A, 0x42]) = some "TEXT \"A\\nB\"".toList := by decide
theorem test_asm_frame : byteList (resetFrame 0) = "[0x00, 0xB0, 0x00, 0x10]".toList := by decide

/-! ## Frames, from the examples of R87 to R92 -/

theorem test_init_frame : initFrame .standard 64 =
    [0x00, 0xAE, 0xD5, 0x80, 0xA8, 0x3F, 0xD3, 0x00, 0x40, 0x8D, 0x14, 0xA1, 0xC8, 0xDA, 0x12, 0x81, 0x7F, 0xD9, 0xF1, 0xDB,
     0x40, 0xA6, 0x20, 0x00, 0xAF] := by decide
theorem test_clear_page_frame : clearPageFrame 4 2 = [0x80, 0xB2, 0x40, 0x00, 0x00, 0x00, 0x00] := by decide
theorem test_reset_frame : resetFrame 1 = [0x00, 0xB1, 0x00, 0x10] := by decide
theorem test_contrast_frame : contrastFrame 200 = [0x00, 0x81, 0xC8] := by decide
theorem test_inversion_frame : inversionFrame false = [0x80, 0xA6] := by decide

/-! ## Small states -/

/-- The default parameters with two callers. -/
def pars : Params := { Params.standard with nCallers := 2 }

/-- An open session of `W` columns and `H` rows. -/
def openReg (W H : Nat) : Session :=
  { sess := .opened, addr := 0x3C, W := W, H := H, mode := .software, bus := .held, font := zeros 1024 }

/-- A session that was closed. -/
def closedReg : Session := { openReg 16 32 with sess := .closed, bus := .released }

/-- Request `req` of caller 0 is due. -/
def due (r : Session) (req : Request) : State :=
  { State.reset with reg := r, par := pars, queue := [(0, req)], waiting := [0] }

/-- An operation of caller 0 is in flight at frame `n`, and caller 1 has a CLOSE queued. -/
def flying (r : Session) (frames : List Frame) (commit : Commit) (n : Nat) (answers : List Answer) : State :=
  { State.reset with
    reg := r
    par := pars
    queue := [(1, .serial [0x02])]
    waiting := [0, 1]
    inflight := some { caller := 0, req := .serial [0x03], frames := frames, addr := 0x3C, commit := commit }
    seq := n
    answers := answers }

/-- A CLEAR of a 16 by 32 display, at its second frame. -/
def clearing (answers : List Answer) : State :=
  flying (openReg 16 32) [clearPageFrame 16 0, clearPageFrame 16 1, clearPageFrame 16 2, clearPageFrame 16 3] .keep 1 answers

/-- What OPEN latches on success. -/
def opens : Commit := .opened 0x3C 16 32 .software (zeros 1024)

/-- An OPEN of a 16 by 32 display, at frame `n`. -/
def opening (n : Nat) (answers : List Answer) : State :=
  flying .reset [initFrame .standard 32] opens n answers

/-- A frame is on its way into the controller. -/
def receives (pos : RxPos) (bytes : List Byte) : State :=
  { State.reset with par := pars, ctl := { Controller.afterReset with rx := bytes, rxPos := pos } }

/-- A part of the next state, where there is one. -/
def after {α : Type} (o : Host.Outcome State Fault Refusal) (f : State → α) : Option α :=
  match o with
  | .next t => some (f t)
  | _ => none

/-- The frames of the operation in flight. -/
def plan (t : State) : List Frame :=
  match t.inflight with
  | some op => op.frames
  | none => []

/-! ## One step of each request -/

theorem test_open_plans_init : after (step (due .reset (.serial [0x01, 0x00, 0x80, 0x40, 0x0A]))) (fun t =>
    (plan t, t.seq, t.reg.sess)) = some ([initFrame .standard 64], 0, .idle) := by decide
theorem test_open_checks_address_first : after (step (due .reset (.serial [0x01, 0x80, 0x00, 0x40, 0x02]))) (fun t =>
    (t.trace, t.waiting)) = some ([.respond 0 (.err .configuration (.field .addr))], []) := by decide
theorem test_close_plans_nothing : after (step (due (openReg 16 32) (.serial [0x02]))) (fun t =>
    (plan t, t.trace, t.inflight.isSome)) = some ([], [], true) := by decide
theorem test_close_when_closed : after (step (due closedReg (.serial [0x02]))) (fun t => t.trace)
    = some [.respond 0 (.err .closed .nothing)] := by decide
theorem test_clear_plans_pages : after (step (due (openReg 1 32) (.serial [0x03]))) plan
    = some [[0x80, 0xB0, 0x40, 0x00], [0x80, 0xB1, 0x40, 0x00], [0x80, 0xB2, 0x40, 0x00], [0x80, 0xB3, 0x40, 0x00]] := by decide
theorem test_clear_when_idle : after (step (due .reset (.serial [0x03]))) (fun t => t.trace)
    = some [.respond 0 (.err .closed .nothing)] := by decide
theorem test_text_wraps_at_the_last_page : after (step (due (openReg 16 32) (.serial [0x04, 4, 0, 0, 0, 10, 10, 10, 10])))
    (fun t => (plan t, t.textPage)) = some ([[0x00, 0xB0, 0x00, 0x10], [0x00, 0xB1, 0x00, 0x10], [0x00, 0xB2, 0x00, 0x10],
      [0x00, 0xB3, 0x00, 0x10], [0x00, 0xB0, 0x00, 0x10]], 0) := by decide
theorem test_text_reads_the_font : after (exec (.setText [0x01])
    (due { openReg 16 32 with font := zeros 8 ++ [1, 2, 3, 4, 5, 6, 7, 8] } (.record .clear))) plan
    = some [[0x00, 0xB0, 0x00, 0x10], [0x40, 1, 2, 3, 4, 5, 6, 7, 8]] := by decide
theorem test_bitmap_example : after (exec (.setBitmap [0x01, 0x02, 0x03, 0x04] 2 16) (due (openReg 16 32) (.record .clear))) plan
    = some [[0x00, 0xB0, 0x00, 0x10], [0x40, 0x01, 0x02], [0x00, 0xB1, 0x00, 0x10], [0x40, 0x03, 0x04]] := by decide
theorem test_bitmap_height : after (exec (.setBitmap [1, 2, 3] 2 12) (due (openReg 16 32) (.record .clear))) (fun t => t.trace)
    = some [.respond 0 (.err .outOfRange (.bitmap 2 12 3))] := by decide
theorem test_qrcode_fills : after (exec (.setQrcode [1, 2, 3, 4, 5, 6, 7, 8]) (due (openReg 2 32) (.record .clear))) (fun t =>
    (plan t)[3]?) = some (some [0x40, 3, 4]) := by decide
theorem test_qrcode_short : after (exec (.setQrcode [1, 2, 3]) (due (openReg 1 32) (.record .clear))) (fun t => t.trace)
    = some [.respond 0 (.err .outOfRange (.payload 3))] := by decide
theorem test_contrast_255 : after (step (due (openReg 16 32) (.serial [0x07, 0xFF, 0, 0, 0]))) plan
    = some [[0x00, 0x81, 0xFF]] := by decide
theorem test_contrast_256 : after (step (due (openReg 16 32) (.serial [0x07, 0, 1, 0, 0]))) (fun t => t.trace)
    = some [.respond 0 (.err .outOfRange (.value 256))] := by decide
theorem test_inversion_true : after (step (due (openReg 16 32) (.serial [0x08, 0x01]))) plan = some [[0x80, 0xA7]] := by decide
theorem test_reserved00_closed : after (step (due closedReg (.serial [0x00]))) (fun t => t.trace)
    = some [.respond 0 (.err .unsupported (.opcode 0x00))] := by decide
theorem test_reserved09FF_idle : after (step (due .reset (.serial [0x09]))) (fun t => (t.trace, t.reg.sess))
    = some ([.respond 0 (.err .unsupported (.opcode 0x09))], .idle) := by decide

/-! ## One step of each controller row (R47, R48) -/

/-- The controller after one step. -/
def ctlAfter {α : Type} (pos : RxPos) (bytes : List Byte) (f : Controller → α) : Option α :=
  after (step (receives pos bytes)) fun t => f t.ctl

theorem test_prefixes : ctlAfter .control [0x80, 0xA7] (fun c => (c.rxPos, c.rx)) = some (.singleCommand, [0xA7]) ∧
    ctlAfter .control [0x00, 0xA7] (fun c => (c.rxPos, c.rx)) = some (.commandStream, [0xA7]) ∧
    ctlAfter .control [0x40, 0xA7] (fun c => (c.rxPos, c.rx)) = some (.dataStream, [0xA7]) := by decide
theorem test_single_command_leads_back :
    ctlAfter .singleCommand [0xB3, 0x40] (fun c => (c.pagePtr, c.rxPos, c.rx)) = some (3, .control, [0x40]) := by decide
theorem test_settings : ctlAfter .commandStream [0xD5, 0x80] (·.clockDiv) = some 0x80 ∧
    ctlAfter .commandStream [0xA8, 0x3F] (·.muxRatio) = some 0x3F ∧ ctlAfter .commandStream [0xD3, 1] (·.offset) = some 1 ∧
    ctlAfter .commandStream [0x8D, 0x14] (·.chargePump) = some 0x14 ∧ ctlAfter .commandStream [0xDA, 2] (·.comPins) = some 2 ∧
    ctlAfter .commandStream [0xD9, 0xF1] (·.precharge) = some 0xF1 ∧ ctlAfter .commandStream [0xDB, 4] (·.vcomh) = some 4 := by
  decide
theorem test_orientation : ctlAfter .commandStream [0xA1] (·.segRemap) = some 0xA1 ∧
    ctlAfter .commandStream [0xC8] (·.comScan) = some 0xC8 ∧ ctlAfter .commandStream [0x7F] (·.startLine) = some 63 := by decide
theorem test_display_modes : ctlAfter .commandStream [0xAF] (·.on) = some true ∧
    ctlAfter .commandStream [0xA7] (·.inverted) = some true ∧ ctlAfter .commandStream [0x81, 9] (·.contrast) = some 9 ∧
    ctlAfter .commandStream [0x20, 0] (·.amode) = some .horizontal ∧ ctlAfter .commandStream [0xAE] (·.on) = some false ∧
    ctlAfter .commandStream [0xA6] (·.inverted) = some false := by decide
theorem test_mode_three_is_refused : step (receives .commandStream [0x20, 3]) = .refused .observerModeUndefined := rfl
theorem test_columns : after (exec (.setColHi 5) { State.reset with ctl := { Controller.afterReset with colPtr := 0x2A } })
      (fun t => t.ctl.colPtr) = some 0x5A ∧
    after (exec (.setColLo 5) { State.reset with ctl := { Controller.afterReset with colPtr := 0x2A } })
      (fun t => t.ctl.colPtr) = some 0x25 := by decide
theorem test_page : ctlAfter .commandStream [0xB7] (·.pagePtr) = some 7 := by decide
theorem test_horizontal_wrap : (fun c : Controller => (c.colPtr, c.pagePtr, c.ram))
    (Controller.data { Controller.afterReset with amode := .horizontal, colPtr := 127, pagePtr := 7 } 0xAA)
      = (0, 0, [(1023, 0xAA)]) := by decide
theorem test_vertical_wrap : (fun c : Controller => (c.colPtr, c.pagePtr))
    (Controller.data { Controller.afterReset with amode := .vertical, colPtr := 3, pagePtr := 7 } 0xAA) = (4, 0) := by decide
theorem test_page_mode_wrap : (fun c : Controller => (c.colPtr, c.pagePtr))
    (Controller.data { Controller.afterReset with colPtr := 127, pagePtr := 2 } 0xAA) = (0, 2) := by decide
theorem test_shown_dark_when_off : Controller.afterReset.shown 0 0 = some false := by decide
theorem test_cut_command_keeps_the_prefix : ctlAfter .commandStream [0xA8] (fun c => (c.muxRatio, c.contrast, c.ram, c.rx))
    = some (Config.freeByte 0, 0x7F, [], []) := rfl
theorem test_extra_commands : ctlAfter .commandStream [0x21, 5, 0x84] (fun c => (c.colStart, c.colEnd, c.colPtr)) = some (5, 4, 5) ∧
    ctlAfter .commandStream [0x22, 9, 3] (fun c => (c.pageStart, c.pageEnd, c.pagePtr)) = some (1, 3, 1) ∧
    ctlAfter .singleCommand [0xA5] (·.entire) = some 0xA5 := by decide
theorem test_shown_pixel : Controller.shown { Controller.afterReset with ram := [(128, 0x42)], on := true, inverted := true } 0 9
    = some false := by decide

/-! ## Steps of the sequencer -/

theorem test_emit_ok : after (step (clearing [.ok])) (fun t => (t.seq, t.ctl.rx)) = some (2, clearPageFrame 16 1) := by decide
theorem test_emit_fail : after (step (clearing [.fail ⟨7⟩ 2])) (fun t => (t.inflight, t.waiting, t.ctl.rx, t.reg.sess))
    = some (none, [1], [0x80, 0xB1], .opened) := by decide
theorem test_complete_open : after (step (opening 1 [])) (fun t => (t.reg.sess, t.reg.bus, t.reg.W, t.trace))
    = some (.opened, .held, 16, [.respond 0 .ok]) := by decide
theorem test_block_reset : after (step { clearing [] with turns := [.blockReset (some 1)] })
    (fun t => (t.inflight, t.queue, t.waiting, t.ctl.rx)) = some (none, [], [], [0x80]) := by decide

theorem test_run_turn : after (step { clearing [.ok] with turns := [.run, .panelReset] }) (fun t => (t.seq, t.ctl.rx, t.turns))
    = some (2, clearPageFrame 16 1, [.panelReset]) := by decide
theorem test_waiting_caller_holds : after (step { clearing [.ok] with turns := [.submit 0 (.record .clear)] })
    (fun t => (t.seq, t.turns)) = some (2, [.submit 0 (.record .clear)]) := by decide

/-! ## Witnesses: states and operands that meet the hypotheses of the statements, at the ends of their ranges -/

theorem witness_RequestMessagesRoundTrip :
    (Instr.setContrast (-(2 ^ 31))).wf = true ∧ (Instr.setContrast (2 ^ 31 - 1)).wf = true ∧
    (Instr.openSession (some 255) 0 255 .accelerated false (some [])).wf = true ∧ (Instr.setBitmap [] 0 65535).wf = true ∧
    (Instr.reserved09FF 0x09).wf = true ∧ (Instr.reserved09FF 0xFF).wf = true ∧ (Instr.setText []).port = .request ∧
    (Instr.reserved09FF 0xFF).port = .request := by decide

theorem witness_DecodedMessagesReencode :
    decodeMessage [0x08, 0x00] = .ok (.setInversion false) ∧ decodeMessage [0x00, 0x55] = .ok .reserved00 := by decide

theorem witness_FrameBytesRoundTrip :
    (Instr.setColLo 15).port = .command ∧ (Instr.setMemMode 3).port = .command ∧ Instr.prefixDataStream.port = .control := by decide

theorem witness_InitFrameIsTheInitSequence :
    InitTuning.standard.admissible = true ∧
    ({ InitTuning.standard with segRemap := 0xA0, comScan := 0xC0, clockDiv := 0xFF } : InitTuning).admissible = true := by decide

theorem font_length : (zeros 1024).length = 1024 := List.length_replicate

theorem witness_GlyphReadsItsEntry :
    (zeros 1024).length = 1024 ∧ (0 : Int) ≤ 0 ∧ (127 : Int) ≤ 127 ∧ (127 : Int) < 128 ∧ (-1 : Int) < 0 ∧
    (0x7F : Byte).toNat ≤ 127 ∧ 128 ≤ (0x80 : Byte).toNat := ⟨font_length, by decide⟩

theorem witness_EncoderFrameBytes : (0 : Int) ≤ 0 ∧ (255 : Int) ≤ 255 := by decide

theorem witness_DefaultFontBlankEntries : (0 : Int) ≤ 0 ∧ (32 : Int) ≤ 32 := by decide

/-- A request is due on an idle session, and on an open one of each size at the ends of the range. -/
theorem due_head (r : Session) (req : Request) : (due r req).head 0 req [] ∧ (due r req).engineNext :=
  ⟨⟨rfl, rfl⟩, rfl⟩

theorem witness_OpenStartsInit :
    (due .reset (.record .clear)).head 0 (.record .clear) [] ∧ (due .reset (.record .clear)).reg.sess = .idle ∧
    (0 ≤ (some 0 : Option Int).getD 0x3C ∧ (some 0x7F : Option Int).getD 0x3C ≤ 0x7F) ∧
    (0 ≤ (none : Option Int).getD 0x3C ∧ (none : Option Int).getD 0x3C ≤ 0x7F) ∧ (1 : Int) ≤ 1 ∧ (128 : Int) ≤ 128 ∧
    ((32 : Int) = 32 ∨ (32 : Int) = 64) ∧ ((64 : Int) = 32 ∨ (64 : Int) = 64) ∧
    ∀ f, some (zeros 1024) = some f → f.length = 1024 :=
  ⟨⟨rfl, rfl⟩, rfl, by decide, by decide, by decide, by decide, by decide, by decide, fun _ h => by cases h; exact font_length⟩

theorem witness_OpenRejectsInvalidConfiguration :
    (due .reset (.record .clear)).head 0 (.record .clear) [] ∧ (due .reset (.record .clear)).reg.sess = .idle ∧
    ¬((some 0x80 : Option Int).getD 0x3C ≤ 0x7F) ∧ ¬(0 ≤ (some (-1) : Option Int).getD 0x3C) ∧
    ¬((1 : Int) ≤ 0) ∧ ¬((129 : Int) ≤ 128) ∧ ¬((48 : Int) = 32 ∨ (48 : Int) = 64) ∧
    ∃ f : List Byte, some [0x00] = some f ∧ f.length ≠ 1024 := by
  refine ⟨⟨rfl, rfl⟩, rfl, by decide, by decide, by decide, by decide, by decide, _, rfl, by decide⟩

theorem witness_CloseStarts : (due (openReg 16 32) (.serial [0x02])).head 0 (.serial [0x02]) [] ∧
    (due (openReg 16 32) (.serial [0x02])).reg.sess = .opened := ⟨⟨rfl, rfl⟩, rfl⟩

theorem witness_ClearPlansOneFramePerPage : (due (openReg 1 64) (.serial [0x03])).head 0 (.serial [0x03]) [] ∧
    (due (openReg 1 64) (.serial [0x03])).reg.sess = .opened ∧ 0 < (openReg 1 64).H / 8 ∧ 7 < (openReg 1 64).H / 8 :=
  ⟨⟨rfl, rfl⟩, rfl, by decide, by decide⟩

theorem witness_TextPlansOneFramePerByte :
    (due (openReg 16 32) (.record .clear)).head 0 (.record .clear) [] ∧ (due (openReg 16 32) (.record .clear)).reg.sess = .opened ∧
    ((openReg 16 32).H = 32 ∨ (openReg 16 32).H = 64) ∧ ((openReg 16 64).H = 32 ∨ (openReg 16 64).H = 64) ∧
    ((due (openReg 16 32) (.record .clear)).par.highCode = .reject → ∀ b ∈ ([0x00, 0x0A, 0x7F] : List Byte), b.toNat < 0x80) ∧
    (({ pars with highCode := .blank } : Params).highCode = .reject → ∀ b ∈ ([0x80, 0xFF] : List Byte), b.toNat < 0x80) :=
  ⟨⟨rfl, rfl⟩, rfl, .inl rfl, .inr rfl, fun _ => by decide, fun h => by cases h⟩

theorem witness_TextRejectsHighCodes :
    (due (openReg 16 32) (.record .clear)).head 0 (.record .clear) [] ∧ (due (openReg 16 32) (.record .clear)).reg.sess = .opened ∧
    (due (openReg 16 32) (.record .clear)).par.highCode = .reject ∧
    (∀ a ∈ ([0x7F] : List Byte), a.toNat < 0x80) ∧ 0x80 ≤ (0x80 : Byte).toNat ∧ 0x80 ≤ (0xFF : Byte).toNat :=
  ⟨⟨rfl, rfl⟩, rfl, rfl, by decide, by decide, by decide⟩

theorem witness_BitmapPlansPageRuns :
    (due (openReg 1 32) (.record .clear)).head 0 (.record .clear) [] ∧ (due (openReg 1 32) (.record .clear)).reg.sess = .opened ∧
    ((1 : Int) ≤ 1 ∧ (1 : Int) ≤ (openReg 1 32).W ∧ (8 : Int) ≤ 32 ∧ (32 : Int) ≤ (openReg 1 32).H ∧ (32 : Int) % 8 = 0 ∧
      (([1, 2, 3, 4] : List Byte).length : Int) = 1 * (32 / 8)) ∧
    ((8 : Int) ≤ 8 ∧ (8 : Int) % 8 = 0 ∧ (([1] : List Byte).length : Int) = 1 * (8 / 8)) ∧
    ¬((1 : Int) ≤ 0) ∧ ¬((2 : Int) ≤ (openReg 1 32).W) ∧ ¬((40 : Int) ≤ (openReg 1 32).H) ∧ ¬((12 : Int) % 8 = 0) :=
  ⟨⟨rfl, rfl⟩, rfl, by decide⟩

theorem witness_QrcodePlansItsGeometry :
    (due (openReg 1 32) (.record .clear)).head 0 (.record .clear) [] ∧ (due (openReg 1 32) (.record .clear)).reg.sess = .opened ∧
    (due (openReg 1 32) (.record .clear)).par.qr = .fullScreen ∧
    qrGeometry .fullScreen [1, 2, 3, 4] 1 32 = some (1, 32) ∧ qrGeometry .fullScreen [1, 2, 3] 1 32 = none ∧
    legalSize (openReg 1 32).W (openReg 1 32).H ∧ legalSize (openReg 128 64).W (openReg 128 64).H ∧
    ([1, 2, 3, 4] : List Byte).length = (openReg 1 32).W * ((openReg 1 32).H / 8) :=
  ⟨⟨rfl, rfl⟩, rfl, rfl, by decide, by decide, by unfold legalSize; decide, by unfold legalSize; decide, by decide⟩

theorem witness_ContrastAndInversionPlanOneFrame :
    (due (openReg 16 32) (.serial [0x07, 0, 0, 0, 0])).head 0 (.serial [0x07, 0, 0, 0, 0]) [] ∧
    (due (openReg 16 32) (.serial [0x07, 0, 0, 0, 0])).reg.sess = .opened ∧ (0 : Int) ≤ 0 ∧ (255 : Int) ≤ 255 ∧ (-1 : Int) < 0 ∧
    (255 : Int) < 256 := ⟨⟨rfl, rfl⟩, rfl, by decide⟩

theorem witness_ReservedOpcodesAnswered : (due closedReg (.serial [0x00])).head 0 (.serial [0x00]) [] ∧
    (due .reset (.serial [0xFF])).head 0 (.serial [0xFF]) [] := ⟨⟨rfl, rfl⟩, ⟨rfl, rfl⟩⟩

theorem witness_GateRejectsByState :
    (due closedReg (.record .clear)).head 0 (.record .clear) [] ∧ (due closedReg (.record .clear)).reg.sess = .closed ∧
    (due .reset (.record .clear)).head 0 (.record .clear) [] ∧ (due .reset (.record .clear)).reg.sess = .idle ∧
    (due (openReg 16 32) (.record .clear)).head 0 (.record .clear) [] ∧ (due (openReg 16 32) (.record .clear)).reg.sess = .opened ∧
    assigned (.setInversion true) = true ∧ isOpening (.setInversion true) = false ∧
    assigned (.openSession none 128 64 .software true none) = true ∧
    isOpening (.openSession none 128 64 .software true none) = true :=
  ⟨⟨rfl, rfl⟩, rfl, ⟨rfl, rfl⟩, rfl, ⟨rfl, rfl⟩, rfl, rfl, rfl, rfl, rfl⟩

theorem witness_RequestsChangeOnlyTheSequencer :
    Instr.clear.port = .request ∧ (∃ t, exec .clear (due (openReg 16 32) (.record .clear)) = .next t) ∧
    ∃ t, exec .clear (due .reset (.record .clear)) = .next t := ⟨rfl, ⟨_, rfl⟩, ⟨_, rfl⟩⟩

theorem witness_ControllerRowsChangeOnlyTheirRegister :
    (Instr.setPage 7).port ≠ .request ∧ ∃ t, exec (.setPage 7) State.reset = .next t := ⟨by decide, _, rfl⟩

theorem witness_StepRunsTheRequest :
    (due .reset (.serial [0x03])).engineNext ∧ (due .reset (.serial [0x03])).head 0 (.serial [0x03]) [] ∧
    (due .reset (.serial [0x03])).turns = [] ∧
    ({ due .reset (.serial [0x03]) with turns := [.run, .run] } : State).turns = .run :: [.run] ∧
    decodeRequest (.serial [0x03]) = .ok .clear ∧ decodeRequest (.record .clear) = .ok .clear :=
  ⟨rfl, ⟨rfl, rfl⟩, rfl, rfl, by decide⟩

theorem witness_StepRunsTheFrameByte :
    (receives .control [0x80, 0xA7]).receiving .control [0x80, 0xA7] ∧ decodeControl 0x80 = .ok .prefixSingleCommand ∧
    (receives .singleCommand [0xA7]).receiving .singleCommand [0xA7] ∧ decodeCommand 0xA7 [] = .instr .invertDisplay [] ∧
    (receives .commandStream [0x81, 0x10]).receiving .commandStream [0x81, 0x10] ∧
    decodeCommand 0x81 [0x10] = .instr (.setContrastCmd 0x10) [] :=
  ⟨⟨rfl, rfl⟩, rfl, ⟨rfl, rfl⟩, by decide, ⟨rfl, rfl⟩, by decide⟩

theorem witness_MalformedMessagesAnswered :
    (due closedReg (.serial [0x02, 0x02])).engineNext ∧ (due closedReg (.serial [0x02, 0x02])).head 0 (.serial [0x02, 0x02]) [] ∧
    decodeMessage [0x02, 0x02] = .reject .wrongLength ∧ decodeMessage [] = .reject .emptyMessage ∧
    9 ≤ (0x09 : Byte).toNat ∧ 9 ≤ (0xFF : Byte).toNat := ⟨rfl, ⟨rfl, rfl⟩, by decide⟩

theorem witness_TurnsRunOrSubmit :
    State.reset.turns = [] ∧ ({ clearing [.ok] with turns := [.run, .run] } : State).turns = .run :: [.run] ∧
    ({ due .reset (.record .clear) with turns := [.submit 1 (.record .clear)] } : State).turns = .submit 1 (.record .clear) :: [] ∧
    ({ due .reset (.record .clear) with turns := [.submit 1 (.record .clear)] } : State).resp 1 = .none ∧
    ({ due .reset (.record .clear) with turns := [.submit 0 (.record .clear)] } : State).resp 0 = .waiting ∧
    1 < (due .reset (.record .clear)).par.nCallers := ⟨rfl, rfl, rfl, by decide, by decide, by decide⟩

theorem witness_EmitOkAdvancesByOne :
    (clearing [.ok]).engineNext ∧ ∃ op f, (clearing [.ok]).inflight = some op ∧ op.frames[(clearing [.ok]).seq]? = some f ∧
      op.addr = (clearing [.ok]).par.panelAddr ∧ f ≠ [] :=
  ⟨rfl, _, _, rfl, rfl, rfl, by decide⟩

theorem witness_EmitFailEndsTheOperation :
    (clearing [.fail ⟨7⟩ 2]).engineNext ∧ (clearing [.fail ⟨7⟩ 2]).answers = .fail ⟨7⟩ 2 :: [] ∧
    (clearing [.fail ⟨7⟩ 0]).engineNext ∧ (clearing [.fail ⟨7⟩ 0]).answers = .fail ⟨7⟩ 0 :: [] ∧
    ∃ op f, (clearing [.fail ⟨7⟩ 2]).inflight = some op ∧ op.frames[(clearing [.fail ⟨7⟩ 2]).seq]? = some f ∧
      op.addr = (clearing [.fail ⟨7⟩ 2]).par.panelAddr ∧ f ≠ [] :=
  ⟨rfl, rfl, rfl, rfl, _, _, rfl, rfl, rfl, by decide⟩

theorem witness_CompleteAppliesTheCommit :
    (opening 1 []).engineNext ∧ ∃ op, (opening 1 []).inflight = some op ∧ (opening 1 []).seq = op.frames.length ∧
      op.commit = .opened 0x3C 16 32 .software (zeros 1024) := ⟨rfl, _, rfl, rfl, rfl⟩

theorem witness_HeldAndIdleStepsChangeNothing :
    (clearing []).engineNext ∧ (∃ op f, (clearing []).inflight = some op ∧ op.frames[(clearing []).seq]? = some f) ∧
    (clearing []).answers = [] ∧
    State.reset.engineNext ∧ State.reset.inflight = none ∧ State.reset.queue = [] :=
  ⟨rfl, ⟨_, _, rfl, rfl⟩, rfl, rfl, rfl, rfl⟩

/-- A reset while the second frame of a CLEAR is out, after one byte of it; and one with nothing out. -/
theorem witness_BlockResetAbandonsEverything :
    ({ clearing [] with turns := [.blockReset (some 1), .run] } : State).turns = .blockReset (some 1) :: [.run] ∧
    (∃ op, ({ clearing [] with turns := [.blockReset (some 1), .run] } : State).outstanding = some (op, clearPageFrame 16 1) ∧
      op.addr = (clearing []).par.panelAddr ∧ clearPageFrame 16 1 ≠ []) ∧
    ({ clearing [] with turns := [.blockReset none] } : State).turns = .blockReset none :: [] ∧
    ({ State.reset with turns := [.blockReset (some 0)] } : State).outstanding = none :=
  ⟨rfl, ⟨_, rfl, rfl, by decide⟩, rfl, rfl⟩

theorem witness_PanelResetDarkensThePicture :
    ({ clearing [] with turns := [.panelReset] } : State).turns = .panelReset :: [] ∧
    ({ Controller.afterReset with on := true, ram := [(1023, 0x80)] } : Controller).on = true ∧
    Memory.read ({ Controller.afterReset with on := true, ram := [(1023, 0x80)] } : Controller).ram (128 * (63 / 8) + 127) = some 0x80 ∧
    Memory.read ({ Controller.afterReset with on := true, ram := [(1023, 0x80)] } : Controller).ram (128 * (63 / 8) + 126) = none :=
  ⟨rfl, rfl, by decide, by decide⟩

theorem witness_CutCommandFreesItsRegisters :
    (receives .commandStream [0x81]).receiving .commandStream [0x81] ∧
    decodeCommand 0x81 [] = .reject (.missingParameter 0x81) ∧
    (receives .commandStream [0x21, 0x05]).receiving .commandStream [0x21, 0x05] ∧
    decodeCommand 0x21 [0x05] = .reject (.missingParameter 0x21) ∧
    decodeCommand 0x22 [] = .reject (.missingParameter 0x22) :=
  ⟨⟨rfl, rfl⟩, by decide, ⟨rfl, rfl⟩, by decide, by decide⟩

/-- The bytes at the ends of the gaps in the table of R48, and a state for each of the clauses. -/
theorem witness_ObserverTakesTheOtherBytes :
    (∀ b ∈ ([0x18, 0x1F, 0x23, 0x3F, 0x80, 0x82, 0x8C, 0x8E, 0x9F, 0xA2, 0xA3, 0xA9, 0xAD, 0xB8, 0xBF, 0xC1, 0xC7, 0xC9, 0xD2,
      0xD4, 0xD6, 0xD8, 0xDC, 0xFF] : List Byte), unlisted b ∧ decodeCommand b [] = .reject (.unknownCommand b)) ∧
    (receives .commandStream [0x21, 0x80, 0x7F]).receiving .commandStream (0x21 :: 0x80 :: 0x7F :: []) ∧
    (receives .commandStream [0x22, 0x08, 0xFF]).receiving .commandStream (0x22 :: 0x08 :: 0xFF :: []) ∧
    (receives .singleCommand [0xA4]).receiving .singleCommand [0xA4] ∧
    (∀ b ∈ ([0x01, 0x3F, 0x41, 0x7F, 0x81, 0xBF, 0xC0, 0xFF] : List Byte), b ≠ 0x80 ∧ b ≠ 0x00 ∧ b ≠ 0x40) ∧
    (receives .control [0xC0]).receiving .control [0xC0] ∧ (receives .singleData [0xFF]).receiving .singleData [0xFF] ∧
    (receives .dataStream [0x01, 0xFF]).receiving .dataStream (0x01 :: [0xFF]) ∧
    decodeCommand 0x81 [] = .reject (.missingParameter 0x81) :=
  ⟨by unfold unlisted; decide, ⟨rfl, rfl⟩, ⟨rfl, rfl⟩, ⟨rfl, rfl⟩, by decide, ⟨rfl, rfl⟩, ⟨rfl, rfl⟩, ⟨rfl, rfl⟩,
    by decide⟩

/-- One controller at each edge of the three clauses. -/
theorem witness_DataWritesAndAdvances :
    ({ Controller.afterReset with amode := .horizontal } : Controller).amode = .horizontal ∧
    ({ Controller.afterReset with amode := .vertical } : Controller).amode = .vertical ∧
    Controller.afterReset.amode = .page ∧
    (126 : Column).toNat < Controller.afterReset.colEnd.toNat ∧ Controller.afterReset.colEnd.toNat ≤ (127 : Column).toNat ∧
    (6 : Page).toNat < Controller.afterReset.pageEnd.toNat ∧ Controller.afterReset.pageEnd.toNat ≤ (7 : Page).toNat := by decide

theorem pars_ok : paramsOk pars := ⟨by decide, by decide⟩

theorem open_ok : (openReg 16 32).ok := ⟨⟨by decide, by decide, .inl rfl⟩, font_length, rfl⟩

theorem flying_callersOk (r : Session) (frames : List Frame) (k : Commit) (n : Nat) (answers : List Answer) :
    (flying r frames k n answers).callersOk :=
  ⟨show List.Pairwise (· < ·) [0, 1] by decide, show ∀ c ∈ [0, 1], c < 2 by decide, List.Perm.refl _⟩

/-- A CLEAR in flight with a request queued satisfies the invariant, whatever the transport answers. -/
theorem witness_inv_clearing (answers : List Answer) : (clearing answers).Inv := by
  refine ⟨pars_ok, open_ok, fun op h => ?_, flying_callersOk _ _ _ _ _, fun _ _ h => absurd h List.not_mem_nil, rfl, rfl⟩
  cases h
  refine ⟨show 1 ≤ 4 by decide, rfl, rfl, fun f hf => ?_⟩
  simp only [List.mem_cons, List.not_mem_nil, or_false] at hf
  rcases hf with rfl | rfl | rfl | rfl
  · exact ⟨.clearPage 16 0, ⟨rfl, show (0 : Page).toNat < 32 / 8 by decide⟩, rfl⟩
  · exact ⟨.clearPage 16 1, ⟨rfl, show (1 : Page).toNat < 32 / 8 by decide⟩, rfl⟩
  · exact ⟨.clearPage 16 2, ⟨rfl, show (2 : Page).toNat < 32 / 8 by decide⟩, rfl⟩
  · exact ⟨.clearPage 16 3, ⟨rfl, show (3 : Page).toNat < 32 / 8 by decide⟩, rfl⟩

/-- An OPEN in flight satisfies the invariant, before and after its frame. -/
theorem witness_inv_opening (n : Nat) (hn : n ≤ 1) (answers : List Answer) : (opening n answers).Inv := by
  refine ⟨pars_ok, rfl, fun op h => ?_, flying_callersOk _ _ _ _ _, fun _ _ h => absurd h List.not_mem_nil, rfl, rfl⟩
  cases h
  exact ⟨hn, rfl, ⟨by decide, by decide, .inl rfl⟩, font_length, rfl, rfl⟩

/-- A CLOSE in flight satisfies the invariant. -/
theorem witness_inv_closing : (flying (openReg 16 32) [] .closed 0 []).Inv := by
  refine ⟨pars_ok, open_ok, fun op h => ?_, flying_callersOk _ _ _ _ _, fun _ _ h => absurd h List.not_mem_nil, rfl, rfl⟩
  cases h
  exact ⟨Nat.le_refl 0, rfl, rfl, rfl⟩

/-- A request at the head of the queue of an open session satisfies the invariant. -/
theorem witness_HeadOfQueueIsAnswered :
    (due (openReg 16 32) (.serial [0x03])).Inv ∧ (due (openReg 16 32) (.serial [0x03])).turns = [] ∧
    (due (openReg 16 32) (.serial [0x03])).head 0 (.serial [0x03]) [] := by
  refine ⟨⟨pars_ok, open_ok, fun op h => ?_, ⟨show List.Pairwise (· < ·) [0] by decide, show ∀ c ∈ [0], c < 2 by decide,
    List.Perm.refl _⟩, fun _ _ h => absurd h List.not_mem_nil, rfl, rfl⟩, rfl, rfl, rfl⟩
  cases h

theorem witness_StepKeepsTheInvariant : (clearing [.ok]).Inv ∧ ∃ t, step (clearing [.ok]) = .next t :=
  ⟨witness_inv_clearing _, _, rfl⟩

theorem witness_MachineAlwaysGoesOn : (clearing [.fail ⟨7⟩ 3]).Inv ∧ (opening 0 []).Inv ∧ State.reset.turns = [] :=
  ⟨witness_inv_clearing _, witness_inv_opening 0 (by decide) _, rfl⟩

theorem witness_QueueIsFifo : (∃ t, step (clearing [.ok]) = .next t) ∧ ∃ t, step (due .reset (.serial [0x03])) = .next t :=
  ⟨⟨_, rfl⟩, ⟨_, rfl⟩⟩

theorem witness_QueueDepthIsBounded : (clearing []).Inv ∧ (clearing []).callersInside = [0, 1] := ⟨witness_inv_clearing _, rfl⟩

theorem witness_EveryFrameIsListed :
    (clearing [.ok]).Inv ∧ (∃ t, step (clearing [.ok]) = .next t ∧
      t.trace.drop (clearing [.ok]).trace.length = [.write 0 0x3C (clearPageFrame 16 1) .ok]) ∧
    (clearing []).Inv ∧ ∃ op, (clearing []).outstanding = some (op, clearPageFrame 16 1) :=
  ⟨witness_inv_clearing _, ⟨_, rfl, rfl⟩, witness_inv_clearing _, _, rfl⟩

theorem witness_ReleasedBusEmitsOnlyInit :
    (opening 0 [.ok]).Inv ∧ (opening 0 [.ok]).reg.bus = .released ∧
    (∃ t, step (opening 0 [.ok]) = .next t ∧
      t.trace.drop (opening 0 [.ok]).trace.length = [.write 0 0x3C (initFrame .standard 32) .ok]) ∧
    ((opening 0 []).Inv ∧ ∃ op, (opening 0 []).outstanding = some (op, initFrame .standard 32)) ∧
    ∃ t, step { opening 0 [] with turns := [.blockReset (some 1)] } = .next t ∧
      t.trace.drop (opening 0 []).trace.length = [.abandoned 0 0x3C (initFrame .standard 32), .blockReset] :=
  ⟨witness_inv_opening 0 (by decide) _, rfl, ⟨_, rfl, rfl⟩,
    ⟨witness_inv_opening 0 (by decide) _, _, rfl⟩, _, rfl, rfl⟩

theorem witness_SessionChangesOnlyByOpenCloseReset :
    ((opening 1 []).Inv ∧ ∃ t, step (opening 1 []) = .next t ∧ t.reg ≠ (opening 1 []).reg) ∧
    ((flying (openReg 16 32) [] .closed 0 []).Inv ∧
      ∃ t, step (flying (openReg 16 32) [] .closed 0 []) = .next t ∧ t.reg.sess = .closed) :=
  ⟨⟨witness_inv_opening 1 (by decide) _, _, rfl, fun h => by cases congrArg Session.sess h⟩,
    witness_inv_closing, _, rfl, rfl⟩

theorem witness_FrameIndexMovesByOne :
    ∃ op t op', step (clearing [.ok]) = .next t ∧ (clearing [.ok]).inflight = some op ∧ t.inflight = some op' :=
  ⟨_, _, _, rfl, rfl, rfl⟩

theorem witness_OperationsNeverInterleave :
    ({ clearing [.ok] with trace := [.write 0 0x3C (clearPageFrame 16 0) .ok] } : State).traceOk ∧
    ∃ t, step { clearing [.ok] with trace := [.write 0 0x3C (clearPageFrame 16 0) .ok] } = .next t := by
  refine ⟨⟨trivial, fun es c a f r h => ⟨_, rfl, ?_⟩⟩, _, rfl⟩
  cases es with
  | nil => cases h; rfl
  | cons e es => cases es <;> cases h

theorem witness_OperationRunsToCompletion :
    (clearing [.ok, .ok, .ok]).Inv ∧ (clearing [.ok, .ok, .ok]).turns = [] ∧
    ∃ op, (clearing [.ok, .ok, .ok]).inflight = some op ∧
      (clearing [.ok, .ok, .ok]).answers = List.replicate (op.frames.length - (clearing [.ok, .ok, .ok]).seq) .ok ++ [] :=
  ⟨witness_inv_clearing _, rfl, _, rfl, rfl⟩

theorem witness_FailedWriteEndsTheOperation :
    (clearing [.ok, .ok, .fail ⟨7⟩ 0]).Inv ∧ ∃ op, (clearing [.ok, .ok, .fail ⟨7⟩ 0]).inflight = some op ∧
      (clearing [.ok, .ok, .fail ⟨7⟩ 0]).seq + 2 < op.frames.length ∧
      (clearing [.ok, .ok, .fail ⟨7⟩ 0]).answers = List.replicate 2 .ok ++ .fail ⟨7⟩ 0 :: [] :=
  ⟨witness_inv_clearing _, _, rfl, by decide, rfl⟩

/-- For ResetFrameSetsTheCursor, DataFramesWriteFromTheCursor and InitFrameConfiguresTheController. -/
theorem witness_frames_on_their_way :
    (receives .control []).par.tuning.admissible = true ∧ dataFrame [0xFF] ≠ dataFrame [] ∧
    (receives .control (resetFrame 7)).turns = [] ∧
    (receives .control (resetFrame 7)).receiving .control (resetFrame 7) ∧
    (receives .control (dataFrame [0xFF])).receiving .control (dataFrame [0xFF]) ∧
    (receives .control (clearPageFrame 1 7)).receiving .control (clearPageFrame 1 7) ∧
    (receives .control (initFrame pars.tuning 32)).receiving .control (initFrame (receives .control []).par.tuning 32) :=
  ⟨by decide, by decide, rfl, ⟨rfl, rfl⟩, ⟨rfl, rfl⟩, ⟨rfl, rfl⟩, ⟨rfl, rfl⟩⟩

/-- For the run clause of DataFramesWriteFromTheCursor: 128 bytes that end at the column end, and 127 that do not. -/
theorem witness_run_to_the_column_end :
    Controller.afterReset.amode ≠ .vertical ∧ zeros 127 ≠ [] ∧ zeros 128 ≠ [] ∧
    Controller.afterReset.colPtr.toNat + (zeros 128).length = Controller.afterReset.colEnd.toNat + 1 ∧
    Controller.afterReset.colPtr.toNat + (zeros 127).length ≤ Controller.afterReset.colEnd.toNat := by
  simp only [zeros, List.length_replicate]; decide

/-- A glyph that ends at the column end, one before it, and one that passes it after three bytes. -/
theorem witness_GlyphSetsItsPixels :
    (zeros 8).length = 8 ∧ ({ Controller.afterReset with amode := .horizontal, colPtr := 120 } : Controller).amode = .horizontal ∧
    ({ Controller.afterReset with amode := .horizontal, colPtr := 120 } : Controller).colPtr.toNat + 7
      = ({ Controller.afterReset with amode := .horizontal, colPtr := 120 } : Controller).colEnd.toNat ∧
    Controller.afterReset.colPtr.toNat + 7 < Controller.afterReset.colEnd.toNat ∧
    3 = max 1 (Controller.afterReset.colEnd.toNat + 1 - (125 : Column).toNat) ∧
    Controller.afterReset.colStart.toNat + (7 - 3) ≤ Controller.afterReset.colEnd.toNat := by decide

/-- A CLEAR of the watched panel is due, and the transport answers all its writes. -/
def clearDue : State := { due (openReg 128 32) (.serial [0x03]) with answers := List.replicate 4 .ok ++ [.fail ⟨7⟩ 0] }

theorem witness_ClearBlanksExactlyWhen :
    (clearDue.turns = [] ∧ clearDue.engineNext ∧ clearDue.head 0 (.serial [0x03]) [] ∧ decodeRequest (.serial [0x03]) = .ok .clear ∧
      clearDue.reg.sess = .opened ∧ legalSize clearDue.reg.W clearDue.reg.H ∧ clearDue.reg.addr = clearDue.par.panelAddr ∧
      clearDue.answers = List.replicate clearDue.reg.pages .ok ++ [.fail ⟨7⟩ 0]) ∧
    (1 : Nat) ≤ 128 ∧ ({ Controller.afterReset with amode := .horizontal } : Controller).amode = .horizontal ∧
    Controller.afterReset.colStart = 0 ∧ Controller.afterReset.colEnd.toNat = 127 ∧
    Controller.afterReset.pageStart = 0 ∧ Controller.afterReset.pageEnd.toNat = 7 ∧ Memory.wf [(0, 0xFF), (1023, 0)] = true :=
  ⟨⟨rfl, rfl, ⟨rfl, rfl⟩, by decide, rfl, by unfold legalSize; decide, rfl, rfl⟩, by decide⟩

end Sys2Proof.Tests
end

section
/-! Which steps change the parameters and the session registers. -/

namespace Sys2Proof.Machine

/-! ## The parameters and the session registers under each shared operation -/

@[simp] theorem started_par (s : State) (c : Nat) (req : Request) (rest : List (Nat × Request)) (fs : List Frame)
    (a : BusAddr) (k : Commit) : (started s c req rest fs a k).par = s.par := rfl

@[simp] theorem started_reg (s : State) (c : Nat) (req : Request) (rest : List (Nat × Request)) (fs : List Frame)
    (a : BusAddr) (k : Commit) : (started s c req rest fs a k).reg = s.reg := rfl

@[simp] theorem turnedAway_par (s : State) (c : Nat) (rest : List (Nat × Request)) (k : ErrKind) (info : Info) :
    (turnedAway s c rest k info).par = s.par := rfl

@[simp] theorem turnedAway_reg (s : State) (c : Nat) (rest : List (Nat × Request)) (k : ErrKind) (info : Info) :
    (turnedAway s c rest k info).reg = s.reg := rfl

@[simp] theorem blockReset_par (cut : Option Nat) (s : State) : (blockReset cut s).par = s.par := by
  obtain h | ⟨k, op, f, -, -, -, -, h⟩ := blockReset_cases cut s <;> simp [h]

@[simp] theorem blockReset_reg (cut : Option Nat) (s : State) : (blockReset cut s).reg = .reset := by
  obtain h | ⟨k, op, f, -, -, -, -, h⟩ := blockReset_cases cut s <;> simp [h]

/-! ## No step changes a parameter (R3) -/

theorem EngineStep.par_eq {s t : State} (h : EngineStep s t) : t.par = s.par := by
  cases h <;> simp

theorem internalStep_par {s t : State} (h : internalStep s = .next t) : t.par = s.par := by
  obtain ⟨-, he⟩ | ⟨-, -, c, n, rfl⟩ := internalStep_next h
  · exact he.par_eq
  · rfl

theorem step_par {s t : State} (h : step s = .next t) : t.par = s.par := by
  obtain ⟨ts, -, hi⟩ | ⟨c, req, ts, -, -, -, rfl⟩ | ⟨cut, ts, -, rfl⟩ | ⟨ts, -, rfl⟩ := step_next h
  · exact (internalStep_par hi).trans rfl
  · simp
  · simp
  · simp

/-! ## Only a complete step and a block reset write the session registers (R109, R134) -/

/-- The step from `s` is a complete step (R109), and it leaves the session registers `r`: the commit of the operation in
flight, all of whose frames are written, is applied. -/
def State.commits (s : State) (r : Session) : Prop :=
  ∃ op, s.inflight = some op ∧ s.seq = op.frames.length ∧ r = applyCommit s.reg op.commit

theorem EngineStep.reg_eq_or_commits {s t : State} (h : EngineStep s t) : t.reg = s.reg ∨ s.commits t.reg := by
  cases h with
  | complete op ho hs => exact .inr ⟨op, ho, hs, completeStep_reg op s⟩
  | stay | start | turnAway | emitOk | emitFail => exact .inl (by simp)

theorem internalStep_reg_eq_or_commits {s t : State} (h : internalStep s = .next t) :
    t.reg = s.reg ∨ s.commits t.reg := by
  obtain ⟨-, he⟩ | ⟨-, -, c, n, rfl⟩ := internalStep_next h
  · exact he.reg_eq_or_commits
  · exact .inl rfl

theorem step_reg_cases {s t : State} (h : step s = .next t) :
    t.reg = s.reg ∨ s.commits t.reg ∨ ∃ cut ts, s.turns = .blockReset cut :: ts ∧ t.reg = .reset := by
  obtain ⟨ts, -, hi⟩ | ⟨c, req, ts, -, -, -, rfl⟩ | ⟨cut, ts, hts, rfl⟩ | ⟨ts, -, rfl⟩ := step_next h
  · obtain hr | hc := internalStep_reg_eq_or_commits hi
    · exact .inl hr
    · exact .inr (.inl hc)
  · exact .inl (by simp)
  · exact .inr (.inr ⟨cut, ts, hts, by simp⟩)
  · exact .inl (by simp)

/-! ## The session in which each commit is in flight (R105) -/

theorem State.Inv.operation_ok {s : State} {op : Operation} (h : s.Inv) (ho : s.inflight = some op) :
    op.ok s.par.tuning s.reg := by
  obtain ⟨-, -, hop, -⟩ := h
  exact (hop op ho).2

theorem Operation.ok.sess_idle_of_opened {t : InitTuning} {r : Session} {op : Operation} (h : op.ok t r)
    {a : BusAddr} {W H : Nat} {m : Mode} {font : List Byte} (hc : op.commit = .opened a W H m font) :
    r.sess = .idle := by
  rw [Operation.ok, hc] at h
  exact h.1

theorem Operation.ok.sess_opened_of_closed {t : InitTuning} {r : Session} {op : Operation} (h : op.ok t r)
    (hc : op.commit = .closed) : r.sess = .opened := by
  rw [Operation.ok, hc] at h
  exact h.1

/-- Settles O44: a step that writes the session registers is a complete step or a block reset, and the three commits of a
complete step are the two of the statement and the one that changes nothing. The invariant gives the session before it. -/
theorem sessionChangesOnlyByOpenCloseReset : Obligations.SessionChangesOnlyByOpenCloseReset := by
  intro s t hinv hst
  refine ⟨step_par hst, ?_⟩
  obtain hr | ⟨op, ho, hs, hr⟩ | hreset := step_reg_cases hst
  · exact .inl hr
  · have hok := hinv.operation_ok ho
    cases hc : op.commit with
    | keep => exact .inl (by rw [hr, hc, applyCommit])
    | opened a W H m font =>
      exact .inr (.inl ⟨op, a, W, H, m, font, ho, hs, hc, hok.sess_idle_of_opened hc, by rw [hr, hc, applyCommit]⟩)
    | closed =>
      exact .inr (.inr (.inl ⟨op, ho, hs, hc, hok.sess_opened_of_closed hc, by rw [hr, hc, applyCommit]⟩))
  · exact .inr (.inr (.inr hreset))

end Sys2Proof.Machine
end

section
/-! What the controller can take in (R47): the first byte of a command fixes how many bytes it has, and a frame that the
observer reads stays readable when it is cut off (R50, R140). -/

namespace Sys2Proof

/-! ## The form of a command -/

/-- The five ways in which the command byte `b` is followed by the rest of its string. -/
inductive CommandForm (b : Byte) : (List Byte → CommandDecoded) → Prop where
  | bare (i : Instr) : CommandForm b fun bs => .instr i bs
  | oneParameter (k : Byte → Instr) : CommandForm b (oneParameter b k)
  | twoParameters (k : Byte → Byte → ExtraCommand) : CommandForm b (twoParameters b k)
  | bareExtra (x : ExtraCommand) : CommandForm b fun bs => .extra x bs
  | unknown : CommandForm b fun _ => .reject (.unknownCommand b)

theorem CommandForm.ite {b : Byte} {p : Prop} [Decidable p] {d e : List Byte → CommandDecoded}
    (hd : CommandForm b d) (he : CommandForm b e) : CommandForm b fun bs => if p then d bs else e bs := by
  split_ifs <;> assumption

theorem decodeCommand_form (b : Byte) : CommandForm b (decodeCommand b) := by
  unfold decodeCommand
  repeat' apply CommandForm.ite
  all_goals constructor

/-- A command that needs no byte after its first has its rest in every string. -/
theorem CommandForm.bare_of_nil {b : Byte} {d : List Byte → CommandDecoded} (h : CommandForm b d) {i : Instr}
    (hd : d [] = .instr i []) (bs : List Byte) : d bs = .instr i bs := by
  cases h <;> cases hd
  rfl

/-- The bytes after a decoded command. -/
@[simp] def CommandDecoded.rest : CommandDecoded → List Byte
  | .instr _ rest => rest
  | .extra _ rest => rest
  | .reject _ => []

theorem CommandForm.rest_length_le {b : Byte} {d : List Byte → CommandDecoded} (h : CommandForm b d) (bs : List Byte) :
    (d bs).rest.length ≤ bs.length := by
  cases h with
  | bare i => exact le_rfl
  | oneParameter k =>
    cases bs with
    | nil => exact le_rfl
    | cons v bs => exact Nat.le_succ _
  | twoParameters k =>
    match bs with
    | [] => exact le_rfl
    | [p] => exact Nat.zero_le _
    | p :: q :: bs => exact (Nat.le_succ _).trans (Nat.le_succ _)
  | bareExtra x => exact le_rfl
  | unknown => exact Nat.zero_le _

/-- `d.cutsTo e`: cutting off the byte string that decodes to `d` can leave one that decodes to `e`. It is the same command
before a part of what followed it, or it has lost its parameter. -/
def CommandDecoded.cutsTo (d e : CommandDecoded) : Prop :=
  match d with
  | .instr i rest => (∃ k, e = .instr i (rest.take k)) ∨ ∃ b, e = .reject (.missingParameter b)
  | .extra x rest => (∃ k, e = .extra x (rest.take k)) ∨ ∃ b, e = .reject (.missingParameter b)
  | .reject r => e = .reject r

theorem CommandForm.cutsTo_take {b : Byte} {d : List Byte → CommandDecoded} (h : CommandForm b d) (bs : List Byte)
    (k : Nat) : (d bs).cutsTo (d (bs.take k)) := by
  cases h with
  | bare i => exact .inl ⟨k, rfl⟩
  | oneParameter f =>
    match bs, k with
    | [], k => rw [List.take_nil]; exact rfl
    | v :: bs, 0 => exact .inr ⟨b, rfl⟩
    | v :: bs, k + 1 => exact .inl ⟨k, rfl⟩
  | twoParameters f =>
    match bs, k with
    | [], k => rw [List.take_nil]; exact rfl
    | [p], 0 => exact rfl
    | [p], k + 1 => rw [List.take_succ_cons, List.take_nil]; exact rfl
    | p :: q :: bs, 0 => exact .inr ⟨b, rfl⟩
    | p :: q :: bs, 1 => exact .inr ⟨b, rfl⟩
    | p :: q :: bs, k + 2 => exact .inl ⟨k, rfl⟩
  | bareExtra x => exact .inl ⟨k, rfl⟩
  | unknown => exact rfl

end Sys2Proof

namespace Sys2Proof.Machine

/-! ## Readable bytes -/

@[simp] theorem readable_nil (n : Nat) (pos : RxPos) : readable n pos [] = true := by
  cases n <;> rfl

/-- A part of readable bytes is readable, with any fuel that counts its bytes. -/
theorem readable_take {n m : Nat} {pos : RxPos} {bs : List Byte} {k : Nat} (h : readable n pos bs = true)
    (hm : (bs.take k).length ≤ m) : readable m pos (bs.take k) = true := by
  induction n generalizing m pos bs k with
  | zero =>
    cases bs with
    | nil => simp
    | cons b bs => cases h
  | succ n ih =>
    match bs, k, m with
    | [], k, m => simp
    | b :: bs, 0, m => simp
    | b :: bs, k + 1, m + 1 =>
      rw [List.take_succ_cons] at hm ⊢
      have hbs : (bs.take k).length ≤ m := Nat.le_of_succ_le_succ hm
      cases pos <;> simp only [readable] at h ⊢
      case control => exact ih h hbs
      case singleData => exact ih h hbs
      case singleCommand =>
        cases hd : decodeCommand b [] with
        | instr i rest =>
          simp only [hd, Bool.and_eq_true] at h ⊢
          exact ⟨h.1, ih h.2 hbs⟩
        | extra x rest =>
          simp only [hd] at h ⊢
          exact ih h hbs
        | reject r => simp only [hd] at h; cases h
      case commandStream =>
        have hcut := (decodeCommand_form b).cutsTo_take bs k
        have hlen := ((decodeCommand_form b).rest_length_le (bs.take k)).trans hbs
        cases hd : decodeCommand b bs with
        | instr i rest =>
          simp only [hd, Bool.and_eq_true] at h hcut
          obtain ⟨j, he⟩ | ⟨c, he⟩ := hcut <;> simp only [he] at hlen ⊢
          simp only [h.1, ih h.2 hlen, Bool.and_self]
        | extra x rest =>
          simp only [hd] at h hcut
          obtain ⟨j, he⟩ | ⟨c, he⟩ := hcut <;> simp only [he] at hlen ⊢
          exact ih h hlen
        | reject r =>
          simp only [hd, CommandDecoded.cutsTo] at h hcut
          cases r with
          | missingParameter c => simp only [hcut]
          | _ => cases h

/-- Fuel for each byte is enough fuel. -/
theorem readable_of_length_le {n m : Nat} {pos : RxPos} {bs : List Byte} (h : readable n pos bs = true)
    (hm : bs.length ≤ m) : readable m pos bs = true := by
  have ht : readable m pos (bs.take bs.length) = true := readable_take h (by simpa using hm)
  rwa [List.take_length] at ht

/-- The observer refuses nothing in the bytes `bs`, read from position `pos`: `readable` with the fuel of the invariant. -/
def Readable (pos : RxPos) (bs : List Byte) : Prop := readable bs.length pos bs = true

theorem readable_iff_of_length_le {n : Nat} {pos : RxPos} {bs : List Byte} (hn : bs.length ≤ n) :
    readable n pos bs = true ↔ Readable pos bs :=
  ⟨fun h => readable_of_length_le h le_rfl, fun h => readable_of_length_le h hn⟩

theorem Readable.take {pos : RxPos} {bs : List Byte} (h : Readable pos bs) (k : Nat) : Readable pos (bs.take k) :=
  readable_take h le_rfl

@[simp] theorem Readable.nil (pos : RxPos) : Readable pos [] := readable_nil _ _

@[simp] theorem readable_dataStream (bs : List Byte) : Readable .dataStream bs := by
  cases bs with
  | nil => exact .nil _
  | cons b bs => exact rfl

theorem readable_control_cons {b : Byte} {bs : List Byte} :
    Readable .control (b :: bs) ↔ Readable (positionAfter b) bs := Iff.rfl

theorem readable_singleData_cons {b : Byte} {bs : List Byte} :
    Readable .singleData (b :: bs) ↔ Readable .control bs := Iff.rfl

theorem readable_singleCommand_instr {b : Byte} {bs rest : List Byte} {i : Instr}
    (hd : decodeCommand b [] = .instr i rest) :
    Readable .singleCommand (b :: bs) ↔ commandDefined i = true ∧ Readable .control bs := by
  simp only [Readable, List.length_cons, readable, hd, Bool.and_eq_true]

theorem readable_singleCommand_extra {b : Byte} {bs rest : List Byte} {x : ExtraCommand}
    (hd : decodeCommand b [] = .extra x rest) : Readable .singleCommand (b :: bs) ↔ Readable .control bs := by
  simp only [Readable, List.length_cons, readable, hd]

theorem readable_commandStream_instr {b : Byte} {bs rest : List Byte} {i : Instr}
    (hd : decodeCommand b bs = .instr i rest) :
    Readable .commandStream (b :: bs) ↔ commandDefined i = true ∧ Readable .commandStream rest := by
  have hlen : rest.length ≤ bs.length := by simpa [hd] using (decodeCommand_form b).rest_length_le bs
  rw [← readable_iff_of_length_le hlen]
  simp only [Readable, List.length_cons, readable, hd, Bool.and_eq_true]

theorem readable_commandStream_extra {b : Byte} {bs rest : List Byte} {x : ExtraCommand}
    (hd : decodeCommand b bs = .extra x rest) : Readable .commandStream (b :: bs) ↔ Readable .commandStream rest := by
  have hlen : rest.length ≤ bs.length := by simpa [hd] using (decodeCommand_form b).rest_length_le bs
  rw [← readable_iff_of_length_le hlen]
  simp only [Readable, List.length_cons, readable, hd]

/-! ## The frames of R58 are readable -/

theorem decode_setStartLine : ∀ l : BitVec 6,
    decodeCommand (0x40 ||| l.zeroExtend 8) [] = .instr (.setStartLine l) [] := by decide

theorem decode_setColLo : ∀ n : BitVec 4,
    decodeCommand (0x00 ||| n.zeroExtend 8) [] = .instr (.setColLo n) [] := by decide

theorem decode_setColHi : ∀ n : BitVec 3,
    decodeCommand (0x10 ||| n.zeroExtend 8) [] = .instr (.setColHi n) [] := by decide

theorem decode_setPage : ∀ n : Page,
    decodeCommand (0xB0 ||| n.zeroExtend 8) [] = .instr (.setPage n) [] := by decide

/-- The bytes of a controller command decode to it, whatever follows them (R47, R59). -/
theorem decodeCommand_encode {i : Instr} (hi : i.port = .command) :
    ∃ b ps, encode i = b :: ps ∧ ∀ rest, decodeCommand b (ps ++ rest) = .instr i rest := by
  cases i with
  | setStartLine l => exact ⟨_, [], rfl, (decodeCommand_form _).bare_of_nil (decode_setStartLine l)⟩
  | setColLo n => exact ⟨_, [], rfl, (decodeCommand_form _).bare_of_nil (decode_setColLo n)⟩
  | setColHi n => exact ⟨_, [], rfl, (decodeCommand_form _).bare_of_nil (decode_setColHi n)⟩
  | setPage n => exact ⟨_, [], rfl, (decodeCommand_form _).bare_of_nil (decode_setPage n)⟩
  | segRemap r => cases r <;> exact ⟨_, _, rfl, fun _ => rfl⟩
  | comScanDir d => cases d <;> exact ⟨_, _, rfl, fun _ => rfl⟩
  | displayOff | displayOn | normalDisplay | invertDisplay | setClockDiv v | setMuxRatio v | setDisplayOffset v
  | chargePump v | setComPins v | setContrastCmd v | setPrecharge v | setVcomh v | setMemMode v =>
    exact ⟨_, _, rfl, fun _ => rfl⟩
  | _ => cases hi

theorem readable_commands {is : List Instr} (h : ∀ i ∈ is, i.port = .command ∧ commandDefined i = true) :
    Readable .commandStream (is.flatMap encode) := by
  induction is with
  | nil => exact .nil _
  | cons i is ih =>
    obtain ⟨⟨hport, hdef⟩, his⟩ := List.forall_mem_cons.1 h
    obtain ⟨b, ps, he, hd⟩ := decodeCommand_encode hport
    rw [List.flatMap_cons, he, List.cons_append, readable_commandStream_instr (hd _)]
    exact ⟨hdef, ih his⟩

/-- The commands of an INIT frame (R87). -/
def initCommands (t : InitTuning) (H : Nat) : List Instr :=
  [.displayOff, .setClockDiv t.clockDiv, .setMuxRatio (muxParameter H), .setDisplayOffset 0x00, .setStartLine 0,
    .chargePump t.chargePump, .segRemap (t.segRemap == 0xA1), .comScanDir (t.comScan == 0xC8),
    .setComPins (comPinsOf t H), .setContrastCmd 0x7F, .setPrecharge t.precharge, .setVcomh t.vcomh, .normalDisplay,
    .setMemMode 0x00, .displayOn]

theorem initCommands_defined (t : InitTuning) (H : Nat) :
    ∀ i ∈ initCommands t H, i.port = .command ∧ commandDefined i = true := by
  simp [initCommands, Instr.port, commandDefined, AddrMode.ofBits]

theorem initFrame_eq_commands {t : InitTuning} (ht : t.admissible = true) (H : Nat) :
    initFrame t H = 0x00 :: (initCommands t H).flatMap encode := by
  simp only [InitTuning.admissible, Bool.and_eq_true, Bool.or_eq_true, beq_iff_eq] at ht
  obtain ⟨⟨-, hseg⟩, hcom⟩ := ht
  have hs : (if t.segRemap == 0xA1 then 0xA1 else 0xA0) = t.segRemap := by
    obtain h | h := hseg <;> rw [h] <;> rfl
  have hc : (if t.comScan == 0xC8 then 0xC8 else 0xC0) = t.comScan := by
    obtain h | h := hcom <;> rw [h] <;> rfl
  simp only [initFrame, initCommands, List.flatMap_cons, List.flatMap_nil, encode, hs, hc]
  rfl

theorem FrameKind.bytes_readable {t : InitTuning} (ht : t.admissible = true) (k : FrameKind) :
    Readable .control (k.bytes t) := by
  cases k with
  | init H =>
    rw [FrameKind.bytes, initFrame_eq_commands ht]
    exact readable_control_cons.2 (readable_commands (initCommands_defined t H))
  | clearPage W N =>
    exact readable_control_cons.2 <| (readable_singleCommand_instr (decode_setPage N)).2 ⟨rfl, readable_dataStream _⟩
  | reset N =>
    exact readable_control_cons.2 <|
      readable_commands (is := [.setPage N, .setColLo 0, .setColHi 0]) (by simp [Instr.port, commandDefined])
  | glyph g => exact readable_control_cons.2 (readable_dataStream g)
  | run r => exact readable_control_cons.2 (readable_dataStream r)
  | contrast v =>
    exact readable_control_cons.2 <|
      readable_commands (is := [.setContrastCmd v]) (by simp [Instr.port, commandDefined])
  | inversion b => cases b <;> exact rfl

end Sys2Proof.Machine
end

section
/-! The panel's controller keeps a canonical display memory and readable bytes through every step (R45, R47). -/

namespace Sys2Proof.Machine

/-- The part of the invariant that is about the panel: canonical display memory, and nothing to refuse in what is left to
take in. -/
def Controller.ok (c : Controller) : Prop := Memory.wf c.ram = true ∧ Readable c.rxPos c.rx

theorem Controller.ok_afterReset : Controller.afterReset.ok := ⟨rfl, .nil _⟩

/-! ## The controller's step -/

/-- What a row of the table leaves of the bytes to take in: a control byte says where the next one stands (R47), and a command
changes nothing of them. -/
theorem exec_control_next {b : Byte} {i : Instr} {s t : State} (hd : decodeControl b = .ok i)
    (h : exec i s = .next t) : t.ctl = { s.ctl with rxPos := positionAfter b } := by
  unfold decodeControl at hd
  split_ifs at hd <;> cases hd <;> subst b <;> cases h <;> rfl

/-- The controller is fine after what it fetched, once a fetched row has run. -/
def Fetched.ok : Fetched → Prop
  | .instr i c => Memory.wf c.ram = true ∧
      ((i.port = .command ∧ Readable c.rxPos c.rx) ∨ ∃ b, decodeControl b = .ok i ∧ Readable (positionAfter b) c.rx)
  | .other c => c.ok
  | .cut _ => True
  | .refuse _ => True

theorem Controller.ok.fetch_ok {c : Controller} (h : c.ok) : c.fetch.ok := by
  obtain ⟨hram, hread⟩ := h
  unfold Controller.fetch
  split
  case h_1 hrx => exact ⟨hram, hrx ▸ hread⟩
  case h_2 b bs hrx =>
    rw [hrx] at hread
    cases hpos : c.rxPos <;> rw [hpos] at hread
    case control =>
      rw [readable_control_cons] at hread
      cases hd : decodeControl b with
      | ok i => exact ⟨hram, .inr ⟨b, hd, hread⟩⟩
      | reject r => exact ⟨hram, hread⟩
    case singleCommand =>
      cases hd : decodeCommand b [] with
      | instr i rest =>
        exact ⟨hram, .inl ⟨decodeCommand_port hd, ((readable_singleCommand_instr hd).1 hread).2⟩⟩
      | extra x rest =>
        exact ⟨by simpa using hram, by simpa using (readable_singleCommand_extra hd).1 hread⟩
      | reject r => trivial
    case singleData =>
      exact ⟨data_wf b hram, by simpa using readable_singleData_cons.1 hread⟩
    case commandStream =>
      cases hd : decodeCommand b bs with
      | instr i rest =>
        exact ⟨hram, .inl ⟨decodeCommand_port hd, by simpa [hpos] using ((readable_commandStream_instr hd).1 hread).2⟩⟩
      | extra x rest =>
        exact ⟨by simpa using hram, by simpa [hpos] using (readable_commandStream_extra hd).1 hread⟩
      | reject r => cases r <;> trivial
    case dataStream =>
      exact ⟨dataStream_wf _ hram, by simp⟩

theorem controllerStep_ctl_ok {s t : State} (hok : s.ctl.ok) (h : controllerStep s = .next t) : t.ctl.ok := by
  have hf := hok.fetch_ok
  unfold controllerStep at h
  cases hd : s.ctl.fetch with
  | instr i c =>
    rw [hd] at h hf
    obtain ⟨hram, ⟨hport, hread⟩ | ⟨b, hb, hread⟩⟩ := hf
    · obtain ⟨c', rfl, hram', hrx, hpos⟩ := exec_frame_next (by rw [hport]; decide) h
      exact ⟨by rw [hram']; exact hram, by rw [hrx, hpos hport]; exact hread⟩
    · rw [exec_control_next hb h]
      exact ⟨hram, hread⟩
  | other c =>
    rw [hd] at h hf
    cases h
    exact hf
  | cut b =>
    rw [hd] at h
    cases h
    exact ⟨by simpa using hok.1, by simp⟩
  | refuse r =>
    rw [hd] at h
    cases h

/-! ## Every step -/

theorem emitOk_ctl (op : Operation) (f : Frame) (s : State) :
    (emitOk op f s).ctl = (toPanel op.addr f { s with trace := s.trace ++ [.write op.caller op.addr f .ok] }).ctl := rfl

theorem emitFail_ctl (op : Operation) (f : Frame) (r : TransportReason) (k : Nat) (s : State) :
    (emitFail op f r k s).ctl = (toPanel op.addr (f.take k)
      { s with trace := s.trace ++ [.write op.caller op.addr f (.fail r k)] }).ctl := rfl

theorem toPanel_ctl_ok {bytes : List Byte} (hb : Readable .control bytes) (a : BusAddr) {s : State} (hok : s.ctl.ok) :
    (toPanel a bytes s).ctl.ok := by
  unfold toPanel deliver
  split_ifs
  · exact hok
  · exact ⟨hok.1, hb⟩
  · exact hok

/-- The frames of the operation in flight are readable. -/
def State.framesReadable (s : State) : Prop :=
  ∀ op, s.inflight = some op → ∀ f ∈ op.frames, Readable .control f

theorem EngineStep.ctl_ok {s t : State} (h : EngineStep s t) (hok : s.ctl.ok) (hfs : s.framesReadable) : t.ctl.ok := by
  cases h with
  | stay | start | turnAway | complete => exact hok
  | emitOk op f as ho hf ha =>
    rw [emitOk_ctl]
    exact toPanel_ctl_ok (hfs op ho f (List.mem_of_getElem? hf)) _ hok
  | emitFail op f r k as ho hf ha =>
    rw [emitFail_ctl]
    exact toPanel_ctl_ok ((hfs op ho f (List.mem_of_getElem? hf)).take k) _ hok

theorem blockReset_ctl_ok {s : State} (hok : s.ctl.ok) (hfs : s.framesReadable) (cut : Option Nat) :
    (blockReset cut s).ctl.ok := by
  obtain h | ⟨k, op, f, -, ho, hf, -, h⟩ := blockReset_cases cut s <;> rw [h, resetBlock_ctl]
  · exact hok
  · exact toPanel_ctl_ok ((hfs op ho f (List.mem_of_getElem? hf)).take k) _ hok

theorem step_ctl_ok {s t : State} (hok : s.ctl.ok) (hfs : s.framesReadable) (h : step s = .next t) : t.ctl.ok := by
  obtain ⟨ts, -, hi⟩ | ⟨c, req, ts, -, -, -, rfl⟩ | ⟨cut, ts, -, rfl⟩ | ⟨ts, -, rfl⟩ := step_next h
  · obtain ⟨-, he⟩ | ⟨-, hc, -⟩ := internalStep_next hi
    · exact he.ctl_ok hok hfs
    · exact controllerStep_ctl_ok (s := { s with turns := ts }) hok hc
  · exact hok
  · exact blockReset_ctl_ok (s := { s with turns := ts }) hok hfs cut
  · exact Controller.ok_afterReset

end Sys2Proof.Machine
end

section
/-! Every planned operation is one that the session state admits, with frames of R58 (R105, R106). -/

namespace Sys2Proof.Machine

/-! ## Legal sizes (R9 to R11) -/

theorem legalSize.pages_pos {r : Session} (h : legalSize r.W r.H) : 0 < r.pages := by
  obtain ⟨-, -, hH | hH⟩ := h <;> simp [Session.pages, hH]

theorem legalSize.pages_le {r : Session} (h : legalSize r.W r.H) : r.pages ≤ 8 := by
  obtain ⟨-, -, hH | hH⟩ := h <;> simp [Session.pages, hH]

theorem toNat_ofNat_page {n : Nat} (hn : n < 8) : (BitVec.ofNat 3 n).toNat = n := by
  rw [BitVec.toNat_ofNat]
  exact Nat.mod_eq_of_lt hn

theorem Session.ok.opened {r : Session} (h : r.ok) (hs : r.sess = .opened) :
    legalSize r.W r.H ∧ r.font.length = 1024 ∧ r.bus = .held := by
  rwa [Session.ok, hs] at h

/-! ## Listed frames (R58) -/

theorem listedFrame_clearPage {t : InitTuning} {W pages n : Nat} (hn : n < pages) (hp : pages ≤ 8) :
    listedFrame t W pages (clearPageFrame W (BitVec.ofNat 3 n)) :=
  ⟨.clearPage W (BitVec.ofNat 3 n), ⟨rfl, by rwa [toNat_ofNat_page (hn.trans_le hp)]⟩, rfl⟩

theorem listedFrame_reset {t : InitTuning} {W pages : Nat} {N : Page} (hN : N.toNat < pages) :
    listedFrame t W pages (resetFrame N) := ⟨.reset N, hN, rfl⟩

theorem listedFrame_glyph {t : InitTuning} {W pages : Nat} {g : List Byte} (hg : g.length = 8) :
    listedFrame t W pages (dataFrame g) := ⟨.glyph g, hg, rfl⟩

theorem listedFrame_run {t : InitTuning} {W pages : Nat} {d : List Byte} (h1 : 1 ≤ d.length) (hW : d.length ≤ W) :
    listedFrame t W pages (dataFrame d) := ⟨.run d, ⟨h1, hW⟩, rfl⟩

theorem listedFrame_contrast (t : InitTuning) (W pages : Nat) (v : Int) : listedFrame t W pages (contrastFrame v) :=
  ⟨.contrast (BitVec.ofInt 8 v), trivial, rfl⟩

theorem listedFrame_inversion (t : InitTuning) (W pages : Nat) (b : Bool) : listedFrame t W pages (inversionFrame b) :=
  ⟨.inversion b, trivial, by cases b <;> rfl⟩

theorem memRead_length {bytes : List Byte} {a n : Nat} (h : a + n ≤ bytes.length) : (memRead bytes a n).length = n := by
  rw [memRead, List.length_take, List.length_drop]
  omega

theorem rasterGlyph_length {policy : HighCodePolicy} {font : List Byte} (hfont : font.length = 1024) {code : Byte}
    {g : List Byte} (h : rasterGlyph policy font code = some g) : g.length = 8 := by
  unfold rasterGlyph glyph at h
  split_ifs at h with hc hn
  · cases h
    exact memRead_length (by rw [hfont]; omega)
  · cases policy <;> cases h
    exact List.length_replicate

theorem nextPage_lt {P : Nat} (hpos : 0 < P) (hP : P ≤ 8) (page : Page) : (nextPage P page).toNat < P := by
  have hlt := Nat.mod_lt (page.toNat + 1) hpos
  rwa [nextPage, toNat_ofNat_page (hlt.trans_le hP)]

theorem textFrames_listed {policy : HighCodePolicy} {font : List Byte} (hfont : font.length = 1024) {P : Nat}
    (hpos : 0 < P) (hP : P ≤ 8) (t : InitTuning) (W : Nat) {page : Page} {text : List Byte} {fs : List Frame}
    (h : textFrames policy font P page text = .ok fs) : ∀ f ∈ fs, listedFrame t W P f := by
  induction text generalizing page fs with
  | nil => cases h; exact fun _ hf => absurd hf List.not_mem_nil
  | cons b bs ih =>
    unfold textFrames at h
    split_ifs at h with hb
    · cases hrec : textFrames policy font P (nextPage P page) bs with
      | error c => rw [hrec] at h; cases h
      | ok fs' =>
        rw [hrec] at h
        cases h
        exact List.forall_mem_cons.2 ⟨listedFrame_reset (nextPage_lt hpos hP page), ih hrec⟩
    · cases hg : rasterGlyph policy font b with
      | none => rw [hg] at h; cases h
      | some g =>
        rw [hg] at h
        cases hrec : textFrames policy font P page bs with
        | error c => rw [hrec] at h; cases h
        | ok fs' =>
          rw [hrec] at h
          cases h
          exact List.forall_mem_cons.2 ⟨listedFrame_glyph (rasterGlyph_length hfont hg), ih hrec⟩

theorem bitmapFrames_listed {bytes : List Byte} {w n W P : Nat} (hw : 1 ≤ w) (hW : w ≤ W) (hn : n ≤ P) (hP : P ≤ 8)
    (hlen : bytes.length = w * n) (t : InitTuning) : ∀ f ∈ bitmapFrames bytes w n, listedFrame t W P f := by
  intro f hf
  simp only [bitmapFrames, List.mem_flatMap, List.mem_range, List.mem_cons, List.not_mem_nil, or_false] at hf
  obtain ⟨p, hp, rfl | rfl⟩ := hf
  · exact listedFrame_reset (by rw [toNat_ofNat_page (hp.trans_le (hn.trans hP))]; exact hp.trans_le hn)
  · have hrun : (memRead bytes (p * w) w).length = w := by
      apply memRead_length
      calc p * w + w = w * (p + 1) := by ring
        _ ≤ w * n := Nat.mul_le_mul_left w hp
        _ = bytes.length := hlen.symm
    exact listedFrame_run (by rwa [hrun]) (by rwa [hrun])

/-! ## The plans -/

/-- A plan, if it is one, makes an operation that the session `r` admits (R105, R106). -/
def Planned.ok (t : InitTuning) (r : Session) : Planned → Prop
  | .plan fs a k => ∀ c req, Operation.ok t r { caller := c, req := req, frames := fs, addr := a, commit := k }
  | .error _ _ => True

theorem Planned.ok_keep {t : InitTuning} {r : Session} (hs : r.sess = .opened) {fs : List Frame}
    (hfs : ∀ f ∈ fs, listedFrame t r.W r.pages f) : (Planned.plan fs r.addr .keep).ok t r :=
  fun _ _ => ⟨hs, rfl, hfs⟩

theorem defaultFont_length : Config.defaultFont.length = 1024 := by
  rw [Config.defaultFont, List.length_append, zeros, List.length_replicate, List.length_map, List.length_range]

theorem planOpen_ok {r : Session} (hs : r.sess = .idle) (t : InitTuning) (addr : Option Int) (width height : Int)
    (mode : Mode) (bus : Bool) (font : Option (List Byte)) : (planOpen t addr width height mode bus font).ok t r := by
  unfold planOpen
  dsimp only
  split_ifs with ha hw hh hb hf
  case neg =>
    intro c req
    have hfont : (font.getD Config.defaultFont).length = 1024 := by
      cases font with
      | none => exact defaultFont_length
      | some f => simpa using hf
    have hsize : legalSize width.toNat height.toNat := by unfold legalSize; omega
    exact ⟨hs, hsize, hfont, rfl, rfl⟩
  all_goals trivial

theorem planClose_ok {r : Session} (hs : r.sess = .opened) (t : InitTuning) : (planClose r).ok t r :=
  fun _ _ => ⟨hs, rfl, rfl⟩

section Display
variable {r : Session} (hr : r.ok) (hs : r.sess = .opened) (t : InitTuning)
include hr hs

theorem planClear_ok : (planClear r).ok t r := by
  obtain ⟨hsize, -, -⟩ := hr.opened hs
  refine Planned.ok_keep hs fun f hf => ?_
  simp only [List.mem_map, List.mem_range] at hf
  obtain ⟨n, hn, rfl⟩ := hf
  exact listedFrame_clearPage hn hsize.pages_le

theorem planText_ok (policy : HighCodePolicy) (text : List Byte) : (planText policy r text).ok t r := by
  obtain ⟨hsize, hfont, -⟩ := hr.opened hs
  unfold planText
  split
  · trivial
  · split
    case h_1 fs hfs =>
      exact Planned.ok_keep hs (List.forall_mem_cons.2 ⟨listedFrame_reset hsize.pages_pos,
        textFrames_listed hfont hsize.pages_pos hsize.pages_le t r.W hfs⟩)
    case h_2 => trivial

theorem planBitmap_ok (bytes : List Byte) (w h : Int) : (planBitmap r bytes w h).ok t r := by
  obtain ⟨hsize, -, -⟩ := hr.opened hs
  unfold planBitmap
  split_ifs with hbad
  · trivial
  · push Not at hbad
    obtain ⟨hw, hW, hh, hH, -, hlen⟩ := hbad
    have hcount : bytes.length = w.toNat * (h / 8).toNat := by
      zify
      rwa [Int.toNat_of_nonneg (by omega), Int.toNat_of_nonneg (by omega)]
    exact Planned.ok_keep hs (bitmapFrames_listed (by omega) (by omega) (by unfold Session.pages; omega)
      hsize.pages_le hcount t)

theorem planQr_ok (g : QrGeometry) (bytes : List Byte) : (planQr g r bytes).ok t r := by
  unfold planQr
  split
  · trivial
  · exact planBitmap_ok hr hs t bytes _ _

end Display

theorem planContrast_ok {r : Session} (hs : r.sess = .opened) (t : InitTuning) (v : Int) :
    (planContrast r v).ok t r := by
  unfold planContrast
  split_ifs
  · trivial
  · exact Planned.ok_keep hs (List.forall_mem_singleton.2 (listedFrame_contrast t _ _ v))

theorem planInversion_ok {r : Session} (hs : r.sess = .opened) (t : InitTuning) (b : Bool) :
    (planInversion r b).ok t r :=
  Planned.ok_keep hs (List.forall_mem_singleton.2 (listedFrame_inversion t _ _ b))

/-! ## The accept step (R103) -/

theorem gate_opening {x : Sess} (h : gate x .opening = none) : x = .idle := by cases x <;> cases h; rfl

theorem gate_closing {x : Sess} (h : gate x .closing = none) : x = .opened := by cases x <;> cases h; rfl

theorem gate_display {x : Sess} (h : gate x .display = none) : x = .opened := by cases x <;> cases h; rfl

theorem accept_operation_ok {cls : RequestClass} {pl : Planned} {page : Page} {s t : State} {op : Operation}
    (h : accept cls pl page s = .next t) (ho : t.inflight = some op)
    (hpl : gate s.reg.sess cls = none → pl.ok s.par.tuning s.reg) : op.ok s.par.tuning s.reg := by
  obtain ⟨c, req, rest, ⟨hi, -⟩, ⟨fs, a, k, hg, rfl, rfl⟩ | ⟨k, info, rfl⟩⟩ := accept_next h
  · cases ho
    exact hpl hg c req
  · exact absurd (hi.symm.trans ho) nofun

theorem acceptUnsupported_inflight {info : Info} {s t : State} (h : acceptUnsupported info s = .next t) :
    t.inflight = none := by
  obtain ⟨c, req, rest, ⟨hi, -⟩, rfl⟩ := acceptUnsupported_next h
  exact hi

/-- A request's meaning is an accept step (R103). An unassigned one is answered with an error; an assigned one has a plan
that depends on the parameters and the session registers alone, and that the session admits where the gate lets it pass. -/
theorem exec_request_form {i : Instr} (hi : i.port = .request) :
    (∃ info, ∀ s, exec i s = acceptUnsupported info s) ∨
    ∃ (cls : RequestClass) (plan : Params → Session → Planned) (page : Session → Page → Page),
      (∀ s, exec i s = accept cls (plan s.par s.reg) (page s.reg s.textPage) s) ∧
      ∀ p r, r.ok → gate r.sess cls = none → (plan p r).ok p.tuning r := by
  cases i with
  | openSession a w h m b f =>
    exact .inr ⟨.opening, fun p _ => planOpen p.tuning a w h m b f, fun _ n => n, fun _ => rfl,
      fun _ _ _ hg => planOpen_ok (gate_opening hg) _ _ _ _ _ _ _⟩
  | closeSession =>
    exact .inr ⟨.closing, fun _ r => planClose r, fun _ n => n, fun _ => rfl,
      fun _ _ _ hg => planClose_ok (gate_closing hg) _⟩
  | clear =>
    exact .inr ⟨.display, fun _ r => planClear r, fun _ n => n, fun _ => rfl,
      fun _ _ hr hg => planClear_ok hr (gate_display hg) _⟩
  | setText text =>
    exact .inr ⟨.display, fun p r => planText p.highCode r text, fun r _ => lastPage r.pages text, fun _ => rfl,
      fun _ _ hr hg => planText_ok hr (gate_display hg) _ _ _⟩
  | setBitmap bytes w h =>
    exact .inr ⟨.display, fun _ r => planBitmap r bytes w h, fun _ n => n, fun _ => rfl,
      fun _ _ hr hg => planBitmap_ok hr (gate_display hg) _ _ _ _⟩
  | setQrcode bytes =>
    exact .inr ⟨.display, fun p r => planQr p.qr r bytes, fun _ n => n, fun _ => rfl,
      fun _ _ hr hg => planQr_ok hr (gate_display hg) _ _ _⟩
  | setContrast v =>
    exact .inr ⟨.display, fun _ r => planContrast r v, fun _ n => n, fun _ => rfl,
      fun _ _ _ hg => planContrast_ok (gate_display hg) _ _⟩
  | setInversion b =>
    exact .inr ⟨.display, fun _ r => planInversion r b, fun _ n => n, fun _ => rfl,
      fun _ _ _ hg => planInversion_ok (gate_display hg) _ _⟩
  | reserved00 => exact .inl ⟨.opcode 0x00, fun _ => rfl⟩
  | reserved09FF op => exact .inl ⟨.opcode op, fun _ => rfl⟩
  | _ => cases hi

/-- An operation that a request's meaning puts in flight is one that the session admits. -/
theorem exec_request_operation_ok {i : Instr} {s t : State} {op : Operation} (hi : i.port = .request) (hr : s.reg.ok)
    (h : exec i s = .next t) (ho : t.inflight = some op) : op.ok s.par.tuning s.reg := by
  obtain ⟨info, he⟩ | ⟨cls, plan, page, he, hok⟩ := exec_request_form hi <;> rw [he] at h
  · exact absurd ((acceptUnsupported_inflight h).symm.trans ho) nofun
  · exact accept_operation_ok h ho (hok s.par s.reg hr)

end Sys2Proof.Machine
end

section
/-! Every step keeps the invariant, part by part. -/

namespace Sys2Proof.Machine

/-! ## The session registers -/

theorem Session.ok_reset : Session.reset.ok := rfl

theorem Operation.ok.applyCommit_ok {t : InitTuning} {r : Session} {op : Operation} (h : op.ok t r) (hr : r.ok) :
    (applyCommit r op.commit).ok := by
  cases hc : op.commit with
  | keep => exact hr
  | opened a W H m font =>
    rw [Operation.ok, hc] at h
    obtain ⟨-, hsize, hfont, -⟩ := h
    exact ⟨hsize, hfont, rfl⟩
  | closed => exact rfl

theorem State.Inv.reg_ok {s : State} (h : s.Inv) : s.reg.ok := by
  obtain ⟨-, hr, -⟩ := h
  exact hr

theorem State.Inv.step_reg_ok {s t : State} (hinv : s.Inv) (h : step s = .next t) : t.reg.ok := by
  obtain he | ⟨op, ho, -, he⟩ | ⟨-, -, -, he⟩ := step_reg_cases h <;> rw [he]
  · exact hinv.reg_ok
  · exact (hinv.operation_ok ho).applyCommit_ok hinv.reg_ok
  · exact Session.ok_reset

/-! ## The operation in flight -/

/-- The part of the invariant that is about the operation in flight. -/
def State.inflightOk (s : State) : Prop :=
  ∀ op, s.inflight = some op → s.seq ≤ op.frames.length ∧ op.ok s.par.tuning s.reg

theorem State.inflightOk_of_none {s : State} (h : s.inflight = none) : s.inflightOk :=
  fun _ ho => absurd (h.symm.trans ho) nofun

theorem EngineStep.inflightOk {s t : State} (h : EngineStep s t) (hr : s.reg.ok) (hop : s.inflightOk) :
    t.inflightOk := by
  cases h with
  | stay => exact hop
  | start c req rest fs a k p i hh hd hx =>
    intro op ho
    exact ⟨Nat.zero_le _, exec_request_operation_ok (s := s) (decodeRequest_port hd) hr hx ho⟩
  | turnAway c req rest k info hh => exact State.inflightOk_of_none hh.1
  | emitOk op f as ho hf ha =>
    intro op' ho'
    have heq : op' = op := Option.some.inj (ho'.symm.trans ((emitOk_inflight op f _).trans ho))
    obtain ⟨hlt, -⟩ := List.getElem?_eq_some_iff.1 hf
    subst heq
    simpa using ⟨hlt, (hop op' ho).2⟩
  | emitFail op f r k as ho hf ha => exact State.inflightOk_of_none (emitFail_inflight ..)
  | complete op ho hs => exact State.inflightOk_of_none (completeStep_inflight ..)

@[simp] theorem blockReset_inflight (cut : Option Nat) (s : State) : (blockReset cut s).inflight = none := by
  obtain h | ⟨k, op, f, -, -, -, -, h⟩ := blockReset_cases cut s <;> simp [h]

theorem State.Inv.step_inflightOk {s t : State} (hinv : s.Inv) (h : step s = .next t) : t.inflightOk := by
  obtain ⟨-, hr, hop, -⟩ := hinv
  obtain ⟨ts, -, hi⟩ | ⟨c, req, ts, -, -, -, rfl⟩ | ⟨cut, ts, -, rfl⟩ | ⟨ts, -, rfl⟩ := step_next h
  · obtain ⟨-, he⟩ | ⟨-, -, c, n, rfl⟩ := internalStep_next hi
    · exact he.inflightOk hr hop
    · exact hop
  · exact hop
  · exact State.inflightOk_of_none (blockReset_inflight ..)
  · exact hop

/-! ## The callers (R18) -/

theorem callersInside_of_some {s : State} {op : Operation} (h : s.inflight = some op) :
    s.callersInside = op.caller :: s.queue.map Prod.fst := by
  simp [State.callersInside, h]

theorem callersInside_of_none {s : State} (h : s.inflight = none) : s.callersInside = s.queue.map Prod.fst := by
  simp [State.callersInside, h]

theorem addCaller_perm {c : Nat} {ds : List Nat} (hc : c ∉ ds) : List.Perm (addCaller c ds) (c :: ds) := by
  induction ds with
  | nil => exact .refl _
  | cons d ds ih =>
    obtain ⟨hcd, hds⟩ := not_or.1 (List.mem_cons.not.1 hc)
    unfold addCaller
    split_ifs with hlt
    · exact .refl _
    · exact ((ih hds).cons d).trans (.swap c d ds)

theorem State.callersOk.nodup {s : State} (h : s.callersOk) : s.waiting.Nodup := by
  obtain ⟨hsort, -, -⟩ := h
  exact hsort.imp Nat.ne_of_lt

theorem State.callersOk.perm {s : State} (h : s.callersOk) : List.Perm s.callersInside s.waiting := by
  obtain ⟨-, -, hperm⟩ := h
  exact hperm

/-- The caller `c`, the first inside, has been answered and has left; the callers behind it are still inside. -/
theorem State.callersOk.answered {s t : State} (h : s.callersOk) {c : Nat}
    (hin : s.callersInside = c :: t.callersInside) (hw : t.waiting = dropCaller c s.waiting) (hp : t.par = s.par) :
    t.callersOk := by
  have hnodup : (c :: t.callersInside).Nodup := hin ▸ h.perm.nodup_iff.2 h.nodup
  obtain ⟨hsort, hlt, hperm⟩ := h
  refine ⟨hw ▸ dropCaller_sorted hsort, fun d hd => ?_, ?_⟩
  · rw [hw, mem_dropCaller] at hd
    rw [hp]
    exact hlt d hd.1
  · have hdrop : dropCaller c (c :: t.callersInside) = t.callersInside := by
      have hne : ∀ d ∈ t.callersInside, decide (d ≠ c) = true := fun d hd =>
        decide_eq_true fun he => (List.nodup_cons.1 hnodup).1 (he ▸ hd)
      simpa [dropCaller] using hne
    rw [hw, ← hdrop, ← hin]
    exact hperm.filter _

/-- A step that leaves who is inside, who is waiting and the parameters keeps the callers. -/
theorem State.callersOk.congr {s t : State} (h : s.callersOk) (hin : t.callersInside = s.callersInside)
    (hw : t.waiting = s.waiting) (hp : t.par = s.par) : t.callersOk := by
  rwa [State.callersOk, hin, hw, hp]

theorem EngineStep.callersOk {s t : State} (h : EngineStep s t) (hc : s.callersOk) : t.callersOk := by
  cases h with
  | stay => exact hc
  | start c req rest fs a k p i hh hd hx =>
    obtain ⟨hi, hq⟩ := hh
    exact hc.congr (by rw [callersInside_of_none hi, hq]; rfl) rfl rfl
  | turnAway c req rest k info hh =>
    obtain ⟨hi, hq⟩ := hh
    have hrest : (turnedAway s c rest k info).callersInside = rest.map Prod.fst := callersInside_of_none hi
    exact hc.answered (by rw [callersInside_of_none hi, hq, hrest, List.map_cons]) rfl rfl
  | emitOk op f as ho hf ha => exact hc.congr (by simp [State.callersInside]) (by simp) (by simp)
  | emitFail op f r k as ho hf ha =>
    have hin := callersInside_of_none (emitFail_inflight op f r k { s with answers := as })
    exact hc.answered (by rw [callersInside_of_some ho, hin, emitFail_queue]) (by simp) (by simp)
  | complete op ho hs =>
    have hin := callersInside_of_none (completeStep_inflight op s)
    exact hc.answered (by rw [callersInside_of_some ho, hin, completeStep_queue]) (by simp) (by simp)

theorem submit_callersInside (c : Nat) (req : Request) (s : State) :
    (submit c req s).callersInside = s.callersInside ++ [c] := by
  simp [State.callersInside]

theorem State.callersOk.submit {s : State} (h : s.callersOk) {c : Nat} (hc : c < s.par.nCallers) (hw : c ∉ s.waiting)
    (req : Request) : (submit c req s).callersOk := by
  obtain ⟨hsort, hlt, hperm⟩ := h
  refine ⟨addCaller_sorted hsort, fun d hd => ?_, ?_⟩
  · obtain rfl | hd := (mem_addCaller c d _).1 hd
    · exact hc
    · exact hlt d hd
  · calc
      (Machine.submit c req s).callersInside = s.callersInside ++ [c] := submit_callersInside c req s
      List.Perm _ (c :: s.callersInside) := List.perm_append_singleton c _
      List.Perm _ (c :: s.waiting) := hperm.cons c
      List.Perm _ (addCaller c s.waiting) := (addCaller_perm hw).symm

@[simp] theorem blockReset_queue (cut : Option Nat) (s : State) : (blockReset cut s).queue = [] := by
  obtain h | ⟨k, op, f, -, -, -, -, h⟩ := blockReset_cases cut s <;> simp [h]

@[simp] theorem blockReset_waiting (cut : Option Nat) (s : State) : (blockReset cut s).waiting = [] := by
  obtain h | ⟨k, op, f, -, -, -, -, h⟩ := blockReset_cases cut s <;> simp [h]

theorem blockReset_callersOk (cut : Option Nat) (s : State) : (blockReset cut s).callersOk := by
  simp [State.callersOk, State.callersInside]

theorem State.callersOk.step {s t : State} (hc : s.callersOk) (h : step s = .next t) : t.callersOk := by
  obtain ⟨ts, -, hi⟩ | ⟨c, req, ts, -, hlt, hw, rfl⟩ | ⟨cut, ts, -, rfl⟩ | ⟨ts, -, rfl⟩ := step_next h
  · obtain ⟨-, he⟩ | ⟨-, -, c, n, rfl⟩ := internalStep_next hi
    · exact he.callersOk hc
    · exact hc
  · exact State.callersOk.submit (s := { s with turns := ts }) hc hlt hw req
  · exact blockReset_callersOk _ _
  · exact hc

/-! ## The turns (R1) -/

theorem EngineStep.turns_eq {s t : State} (h : EngineStep s t) : t.turns = s.turns := by
  cases h with
  | stay | start | turnAway | complete => rfl
  | emitOk | emitFail => simp

theorem internalStep_turns {s t : State} (h : internalStep s = .next t) : t.turns = s.turns := by
  obtain ⟨-, he⟩ | ⟨-, -, c, n, rfl⟩ := internalStep_next h
  · exact he.turns_eq
  · rfl

@[simp] theorem blockReset_turns (cut : Option Nat) (s : State) : (blockReset cut s).turns = s.turns := by
  obtain h | ⟨k, op, f, -, -, -, -, h⟩ := blockReset_cases cut s <;> simp [h]

/-- A step takes turns from the front of the list only. -/
theorem step_turns_subset {s t : State} (h : step s = .next t) : t.turns ⊆ s.turns := by
  obtain ⟨ts, hts, hi⟩ | ⟨c, req, ts, hts, -, -, rfl⟩ | ⟨cut, ts, hts, rfl⟩ | ⟨ts, hts, rfl⟩ := step_next h
  · rw [internalStep_turns hi]
    obtain ⟨-, rfl⟩ | hts | ⟨-, -, -, -, rfl, -⟩ := hts
    · exact List.nil_subset _
    · exact hts ▸ List.subset_cons_self _ _
    · exact List.Subset.refl _
  all_goals simp [hts]

theorem State.turnsOk.step {s t : State} (ht : s.turnsOk) (h : step s = .next t) : t.turnsOk := by
  intro c req hmem
  rw [step_par h]
  exact ht c req (step_turns_subset h hmem)

/-! ## The panel -/

theorem listedFrame.readable {t : InitTuning} (ht : t.admissible = true) {W pages : Nat} {f : Frame}
    (h : listedFrame t W pages f) : Readable .control f := by
  obtain ⟨k, -, rfl⟩ := h
  exact k.bytes_readable ht

theorem Operation.ok.frames_readable {t : InitTuning} (ht : t.admissible = true) {r : Session} {op : Operation}
    (h : op.ok t r) : ∀ f ∈ op.frames, Readable .control f := by
  unfold Operation.ok at h
  split at h
  · obtain ⟨-, -, -, -, hfs⟩ := h
    rw [hfs]
    exact List.forall_mem_singleton.2 (FrameKind.bytes_readable ht (.init _))
  · obtain ⟨-, hfs, -⟩ := h
    rw [hfs]
    exact fun _ hf => absurd hf List.not_mem_nil
  · obtain ⟨-, -, hfs⟩ := h
    exact fun f hf => (hfs f hf).readable ht

theorem State.Inv.framesReadable {s : State} (h : s.Inv) : s.framesReadable := by
  intro op ho
  have hop := h.operation_ok ho
  obtain ⟨⟨ht, -⟩, -⟩ := h
  exact hop.frames_readable ht

/-- Settles O40: each part of the invariant is kept for a reason of its own. A plan is one that the gate admits, a caller
leaves when it is answered, and every part of a listed frame is readable. -/
theorem stepKeepsTheInvariant : Obligations.StepKeepsTheInvariant := by
  intro s t hinv h
  have hreg := hinv.step_reg_ok h
  have hop := hinv.step_inflightOk h
  have hfs := hinv.framesReadable
  obtain ⟨hpar, -, -, hcallers, hturns, hctl⟩ := hinv
  obtain ⟨hram, hrx⟩ := step_ctl_ok hctl hfs h
  exact ⟨by rwa [step_par h], hreg, hop, hcallers.step h, hturns.step h, hram, hrx⟩

end Sys2Proof.Machine
end

section
/-! What one step does to the queue, the frame index and the output sequence (R6, R13, R17, R18, R39). -/

namespace Sys2Proof.Machine

/-! ## The queue -/

theorem EngineStep.queue_cases {s t : State} (h : EngineStep s t) : t.queue = s.queue ∨ ∃ q, s.queue = q :: t.queue := by
  cases h with
  | stay | complete => exact .inl rfl
  | start c req rest fs a k p i hh hd hx => exact .inr ⟨(c, req), hh.2⟩
  | turnAway c req rest k info hh => exact .inr ⟨(c, req), hh.2⟩
  | emitOk | emitFail => exact .inl (by simp)

/-- Settles O48: the engine takes the head of the queue when it accepts, the callers add at its tail, and only a block reset
does more. -/
theorem queueIsFifo : Obligations.QueueIsFifo := by
  intro s t h
  obtain ⟨ts, -, hi⟩ | ⟨c, req, ts, hts, -, hw, rfl⟩ | ⟨cut, ts, hts, rfl⟩ | ⟨ts, -, rfl⟩ := step_next h
  · obtain ⟨-, he⟩ | ⟨-, -, c, n, rfl⟩ := internalStep_next hi
    · obtain hq | hq := he.queue_cases
      · exact .inl hq
      · exact .inr (.inl hq)
    · exact .inl rfl
  · exact .inr (.inr (.inl ⟨c, req, ts, hts, (resp_none s c).2 hw, rfl⟩))
  · exact .inr (.inr (.inr ⟨cut, ts, hts, blockReset_queue ..⟩))
  · exact .inl rfl

theorem queue_length_le_callersInside (s : State) : s.queue.length ≤ s.callersInside.length := by
  simp [State.callersInside]

/-- Different callers below `N_CALLERS` are at most that many. -/
theorem State.callersOk.waiting_length_le {s : State} (h : s.callersOk) : s.waiting.length ≤ s.par.nCallers := by
  have hnodup := h.nodup
  obtain ⟨-, hlt, -⟩ := h
  have hsub : s.waiting ⊆ List.range s.par.nCallers := fun c hc => List.mem_range.2 (hlt c hc)
  simpa using (hnodup.subperm hsub).length_le

theorem State.callersOk.resp_waiting_iff {s : State} (h : s.callersOk) (c : Nat) :
    s.resp c = .waiting ↔ c ∈ s.callersInside := by
  rw [resp_waiting, h.perm.mem_iff]

/-- Settles O49: the callers inside are the waiting ones, and those are different callers of the block. -/
theorem queueDepthIsBounded : Obligations.QueueDepthIsBounded := by
  rintro s ⟨-, -, -, hcallers, -⟩
  refine ⟨?_, hcallers.perm.nodup_iff.2 hcallers.nodup, hcallers.resp_waiting_iff⟩
  calc s.queue.length ≤ s.callersInside.length := queue_length_le_callersInside s
    _ = s.waiting.length := hcallers.perm.length_eq
    _ ≤ s.par.nCallers := hcallers.waiting_length_le

/-! ## The frame index -/

/-- From `s` to `t` the operation `op` waited, or the transport took the frame at the index. -/
def movesByOne (op : Operation) (s t : State) : Prop :=
  t.seq = s.seq ∧ t.trace = s.trace ∨
    t.seq = s.seq + 1 ∧ ∃ f, op.frames[s.seq]? = some f ∧ t.trace = s.trace ++ [.write op.caller op.addr f .ok]

theorem EngineStep.movesByOne {s t : State} {op op' : Operation} (h : EngineStep s t) (ho : s.inflight = some op)
    (ho' : t.inflight = some op') : op' = op ∧ movesByOne op s t := by
  cases h with
  | stay => exact ⟨Option.some.inj (ho'.symm.trans ho), .inl ⟨rfl, rfl⟩⟩
  | start c req rest fs a k p i hh hd hx => exact absurd (hh.1.symm.trans ho) nofun
  | turnAway c req rest k info hh => exact absurd (hh.1.symm.trans ho) nofun
  | emitOk op₁ f as ho₁ hf ha =>
    obtain rfl : op₁ = op := Option.some.inj (ho₁.symm.trans ho)
    have hsame : op' = op₁ := Option.some.inj (ho'.symm.trans ((emitOk_inflight ..).trans ho))
    exact ⟨hsame, .inr ⟨emitOk_seq .., f, hf, emitOk_trace ..⟩⟩
  | emitFail op₁ f r k as ho₁ hf ha => exact absurd ((emitFail_inflight ..).symm.trans ho') nofun
  | complete op₁ ho₁ hs => exact absurd ((completeStep_inflight ..).symm.trans ho') nofun

/-- Settles O47: of the steps that leave an operation in flight, only the emit step that succeeds moves the index. -/
theorem frameIndexMovesByOne : Obligations.FrameIndexMovesByOne := by
  intro s t op op' h ho ho'
  have unmoved (hi : t.inflight = s.inflight) (hs : t.seq = s.seq) (ht : t.trace = s.trace) :
      op' = op ∧ movesByOne op s t :=
    ⟨Option.some.inj (ho'.symm.trans (hi.trans ho)), .inl ⟨hs, ht⟩⟩
  obtain ⟨ts, -, hi⟩ | ⟨c, req, ts, -, -, -, rfl⟩ | ⟨cut, ts, -, rfl⟩ | ⟨ts, -, rfl⟩ := step_next h
  · obtain ⟨-, he⟩ | ⟨-, -, c, n, rfl⟩ := internalStep_next hi
    · exact he.movesByOne ho ho'
    · exact unmoved rfl rfl rfl
  · exact unmoved rfl rfl rfl
  · exact absurd ((blockReset_inflight ..).symm.trans ho') nofun
  · exact unmoved rfl rfl rfl

/-! ## The transport calls -/

/-- The transport call that an event records: where it went, and its frame. -/
def Event.call? : Event → Option (BusAddr × Frame)
  | .write _ a f _ => some (a, f)
  | .abandoned _ a f => some (a, f)
  | .respond .. => none
  | .blockReset => none

/-- From `s` to `t` the trace grew, and the new events record no transport call, or the one call of `s`: the next frame of
the operation in flight (R108). -/
def addsCallOf (s t : State) : Prop :=
  ∃ es, t.trace = s.trace ++ es ∧
    (es.filterMap Event.call? = [] ∨
      ∃ op f, s.inflight = some op ∧ op.frames[s.seq]? = some f ∧ es.filterMap Event.call? = [(op.addr, f)])

theorem addsCallOf_of_trace_eq {s t : State} (h : t.trace = s.trace) : addsCallOf s t :=
  ⟨[], by rw [h, List.append_nil], .inl rfl⟩

theorem EngineStep.addsCallOf {s t : State} (h : EngineStep s t) : addsCallOf s t := by
  cases h with
  | stay | start => exact addsCallOf_of_trace_eq rfl
  | turnAway c req rest k info hh => exact ⟨_, rfl, .inl rfl⟩
  | emitOk op f as ho hf ha => exact ⟨_, emitOk_trace .., .inr ⟨op, f, ho, hf, rfl⟩⟩
  | emitFail op f r k as ho hf ha => exact ⟨_, emitFail_trace .., .inr ⟨op, f, ho, hf, rfl⟩⟩
  | complete op ho hs => exact ⟨_, completeStep_trace .., .inl rfl⟩

theorem blockReset_addsCallOf (cut : Option Nat) (s : State) : addsCallOf s (blockReset cut s) := by
  obtain h | ⟨k, op, f, -, ho, hf, -, h⟩ := blockReset_cases cut s <;> rw [h]
  · exact ⟨_, resetBlock_trace s, .inl rfl⟩
  · exact ⟨[.abandoned op.caller op.addr f, .blockReset], by simp, .inr ⟨op, f, ho, hf, rfl⟩⟩

theorem step_addsCallOf {s t : State} (h : step s = .next t) : addsCallOf s t := by
  obtain ⟨ts, -, hi⟩ | ⟨c, req, ts, -, -, -, rfl⟩ | ⟨cut, ts, -, rfl⟩ | ⟨ts, -, rfl⟩ := step_next h
  · obtain ⟨-, he⟩ | ⟨-, -, c, n, rfl⟩ := internalStep_next hi
    · exact he.addsCallOf
    · exact addsCallOf_of_trace_eq rfl
  · exact addsCallOf_of_trace_eq rfl
  · exact blockReset_addsCallOf cut { s with turns := ts }
  · exact addsCallOf_of_trace_eq rfl

/-- Every transport call that a step records is of the operation that was in flight before it, and of its next frame. -/
theorem step_records_call {s t : State} (h : step s = .next t) {e : Event} (he : e ∈ t.trace.drop s.trace.length)
    {c : Nat} {a : BusAddr} {f : Frame} {r : Answer} (hcall : e = .write c a f r ∨ e = .abandoned c a f) :
    ∃ op, s.inflight = some op ∧ op.frames[s.seq]? = some f ∧ a = op.addr := by
  obtain ⟨es, htrace, hes⟩ := step_addsCallOf h
  rw [htrace, List.drop_left] at he
  have hmem : (a, f) ∈ es.filterMap Event.call? :=
    List.mem_filterMap.2 ⟨e, he, by obtain rfl | rfl := hcall <;> rfl⟩
  obtain hnone | ⟨op, f', ho, hf, hone⟩ := hes
  · exact absurd (hnone ▸ hmem) List.not_mem_nil
  · rw [hone, List.mem_singleton] at hmem
    cases hmem
    exact ⟨op, ho, hf, rfl⟩

theorem outstanding_eq_some {s : State} {op : Operation} {f : Frame} (h : s.outstanding = some (op, f)) :
    s.inflight = some op ∧ op.frames[s.seq]? = some f := by
  unfold State.outstanding at h
  cases ho : s.inflight with
  | none => rw [ho] at h; cases h
  | some op' =>
    rw [ho] at h
    dsimp only at h
    split_ifs at h
    obtain ⟨f', hf, heq⟩ := Option.map_eq_some_iff.1 h
    cases heq
    exact ⟨rfl, hf⟩

/-! ## The released bus (R13) -/

/-- The bus is released, so the session is not Open, and the only operation with a frame is an OPEN. -/
theorem Operation.ok.opens_of_released {t : InitTuning} {r : Session} {op : Operation} (h : op.ok t r) (hr : r.ok)
    (hbus : r.bus = .released) {f : Frame} (hf : f ∈ op.frames) :
    ∃ H, (H = 32 ∨ H = 64) ∧ f = initFrame t H ∧ ∃ W m font, op.commit = .opened op.addr W H m font := by
  cases hc : op.commit with
  | opened a W H m font =>
    rw [Operation.ok, hc] at h
    obtain ⟨-, ⟨-, -, hH⟩, -, ha, hfs⟩ := h
    rw [hfs, List.mem_singleton] at hf
    exact ⟨H, hH, hf, W, m, font, by rw [ha]⟩
  | closed =>
    rw [Operation.ok, hc] at h
    obtain ⟨-, hfs, -⟩ := h
    rw [hfs] at hf
    exact absurd hf List.not_mem_nil
  | keep =>
    rw [Operation.ok, hc] at h
    obtain ⟨-, -, hheld⟩ := hr.opened h.1
    exact absurd (hbus.symm.trans hheld) nofun

/-- Settles O43: a step records the call of the operation in flight only, and while the bus is released the frames of that
operation are an OPEN's. -/
theorem releasedBusEmitsOnlyInit : Obligations.ReleasedBusEmitsOnlyInit := by
  refine ⟨fun s t hinv h hbus e he c a f r hcall => ?_, fun s hinv hbus op f hout => ?_⟩
  · obtain ⟨op, ho, hf, rfl⟩ := step_records_call h he hcall
    obtain ⟨H, hH, hinit, hopen⟩ :=
      (hinv.operation_ok ho).opens_of_released hinv.reg_ok hbus (List.mem_of_getElem? hf)
    exact ⟨op, H, ho, hH, hinit, hopen⟩
  · obtain ⟨ho, hf⟩ := outstanding_eq_some hout
    exact (hinv.operation_ok ho).opens_of_released hinv.reg_ok hbus (List.mem_of_getElem? hf)

end Sys2Proof.Machine
end

section
/-! The machine's own step reads no turn, and the engine's step reads nothing of the controller (R21, R39, R129). -/

namespace Sys2Proof.Machine

/-- An outcome with `g` applied to its next state. -/
def mapNext (g : State → State) : Host.Outcome State Fault Refusal → Host.Outcome State Fault Refusal
  | .next s => .next (g s)
  | .fault r => .fault r
  | .refused r => .refused r

/-- `s` with another list of turns. -/
def State.withTurns (ts : List Turn) (s : State) : State := { s with turns := ts }

/-- `s` with another panel. -/
def State.withPanel (c : Controller) (n : Nat) (s : State) : State := { s with ctl := c, draws := n }

/-! ## The accept step -/

/-- `g` changes nothing that an accept step reads or writes. -/
structure AcceptFrame (g : State → State) : Prop where
  reg : ∀ s, (g s).reg = s.reg
  par : ∀ s, (g s).par = s.par
  textPage : ∀ s, (g s).textPage = s.textPage
  queue : ∀ s, (g s).queue = s.queue
  inflight : ∀ s, (g s).inflight = s.inflight
  turnedAway : ∀ s c rest k info, turnedAway (g s) c rest k info = g (turnedAway s c rest k info)
  started : ∀ s c req rest fs a k page,
    { started (g s) c req rest fs a k with textPage := page } = g { started s c req rest fs a k with textPage := page }

theorem acceptFrame_withTurns (ts : List Turn) : AcceptFrame (State.withTurns ts) where
  reg _ := rfl
  par _ := rfl
  textPage _ := rfl
  queue _ := rfl
  inflight _ := rfl
  turnedAway _ _ _ _ _ := rfl
  started _ _ _ _ _ _ _ _ := rfl

theorem acceptFrame_withPanel (c : Controller) (n : Nat) : AcceptFrame (State.withPanel c n) where
  reg _ := rfl
  par _ := rfl
  textPage _ := rfl
  queue _ := rfl
  inflight _ := rfl
  turnedAway _ _ _ _ _ := rfl
  started _ _ _ _ _ _ _ _ := rfl

section
variable {g : State → State} (hg : AcceptFrame g) {s : State} {c : Nat} {req : Request} {rest : List (Nat × Request)}
include hg

theorem AcceptFrame.head (h : s.head c req rest) : (g s).head c req rest :=
  ⟨(hg.inflight s).trans h.1, (hg.queue s).trans h.2⟩

theorem AcceptFrame.accept (h : s.head c req rest) (cls : RequestClass) (pl : Planned) (page : Page) :
    accept cls pl page (g s) = mapNext g (accept cls pl page s) := by
  have h' := hg.head h
  cases hgate : gate s.reg.sess cls with
  | some k =>
    rw [accept_gateError h hgate, accept_gateError h' (by rwa [hg.reg]), mapNext, hg.turnedAway]
  | none =>
    have hgate' : gate (g s).reg.sess cls = none := by rwa [hg.reg]
    cases pl with
    | plan fs a k => rw [accept_start h hgate rfl, accept_start h' hgate' rfl, mapNext, hg.started]
    | error k info => rw [accept_planError h hgate rfl, accept_planError h' hgate' rfl, mapNext, hg.turnedAway]

theorem AcceptFrame.acceptUnsupported (h : s.head c req rest) (info : Info) :
    acceptUnsupported info (g s) = mapNext g (acceptUnsupported info s) := by
  rw [acceptUnsupported_head h, acceptUnsupported_head (hg.head h), mapNext, hg.turnedAway]

theorem AcceptFrame.exec_request (h : s.head c req rest) {i : Instr} (hi : i.port = .request) :
    exec i (g s) = mapNext g (exec i s) := by
  obtain ⟨info, he⟩ | ⟨cls, plan, page, he, -⟩ := exec_request_form hi
  · rw [he, he, hg.acceptUnsupported h]
  · rw [he, he, hg.reg, hg.par, hg.textPage, hg.accept h]

theorem AcceptFrame.acceptStep (ho : s.inflight = none) : acceptStep (g s) = mapNext g (acceptStep s) := by
  unfold Machine.acceptStep
  rw [hg.queue]
  cases hq : s.queue with
  | nil => rfl
  | cons q rest =>
    have h : s.head q.1 q.2 rest := ⟨ho, hq⟩
    dsimp only
    cases hd : decodeRequest q.2 with
    | ok i => exact hg.exec_request h (decodeRequest_port hd)
    | reject r => exact hg.acceptUnsupported h _

end

/-! ## Each case of the engine's step (R103, R107 to R109) -/

section
variable {s : State} {op : Operation} {f : Frame}

theorem engineStep_accept (ho : s.inflight = none) : engineStep s = acceptStep s := by
  unfold engineStep
  rw [ho]

theorem engineStep_emit (ho : s.inflight = some op) (hf : op.frames[s.seq]? = some f) :
    engineStep s = .next (emitStep op f s) := by
  unfold engineStep
  rw [ho]
  dsimp only
  rw [hf]

theorem engineStep_end (ho : s.inflight = some op) (hf : op.frames[s.seq]? = none) :
    engineStep s = if s.seq = op.frames.length then .next (completeStep op s) else .fault .frameIndexPastEnd := by
  unfold engineStep
  rw [ho]
  dsimp only
  rw [hf]

theorem emitStep_held (ha : s.answers = []) : emitStep op f s = s := by
  unfold emitStep
  rw [ha]

theorem emitStep_ok {as : List Answer} (ha : s.answers = .ok :: as) :
    emitStep op f s = emitOk op f { s with answers := as } := by
  unfold emitStep
  rw [ha]

theorem emitStep_fail {r : TransportReason} {k : Nat} {as : List Answer} (ha : s.answers = .fail r k :: as) :
    emitStep op f s = emitFail op f r k { s with answers := as } := by
  unfold emitStep
  rw [ha]

end

/-! ## The engine's step, whatever the panel holds -/

section
variable (op : Operation) (f : Frame) (c : Controller) (n : Nat) (s : State)

/-- A delivery changes the controller alone. -/
theorem toPanel_eq (a : BusAddr) (bytes : List Byte) :
    toPanel a bytes s = { s with ctl := (toPanel a bytes s).ctl } := by
  unfold toPanel deliver
  split_ifs <;> rfl

theorem toPanel_withPanel (a : BusAddr) (bytes : List Byte) :
    ∃ c', toPanel a bytes (s.withPanel c n) = (toPanel a bytes s).withPanel c' n := by
  rw [toPanel_eq, toPanel_eq s]
  exact ⟨_, rfl⟩

theorem emitOk_withPanel : ∃ c', emitOk op f (s.withPanel c n) = (emitOk op f s).withPanel c' n := by
  obtain ⟨c', hc⟩ := toPanel_withPanel c n { s with trace := s.trace ++ [.write op.caller op.addr f .ok] } op.addr f
  exact ⟨c', congrArg (fun t : State => { t with seq := t.seq + 1 }) hc⟩

theorem emitFail_withPanel (r : TransportReason) (k : Nat) :
    ∃ c', emitFail op f r k (s.withPanel c n) = (emitFail op f r k s).withPanel c' n := by
  obtain ⟨c', hc⟩ := toPanel_withPanel c n { s with trace := s.trace ++ [.write op.caller op.addr f (.fail r k)] }
    op.addr (f.take k)
  exact ⟨c', congrArg (fun t => answerError op.caller .transport (.reason r) (endOperation t)) hc⟩

theorem emitStep_withPanel : ∃ c', emitStep op f (s.withPanel c n) = (emitStep op f s).withPanel c' n := by
  match ha : s.answers with
  | [] =>
    rw [emitStep_held ha, emitStep_held (s := s.withPanel c n) ha]
    exact ⟨c, rfl⟩
  | .ok :: as =>
    rw [emitStep_ok ha, emitStep_ok (s := s.withPanel c n) ha]
    exact emitOk_withPanel op f c n { s with answers := as }
  | .fail r k :: as =>
    rw [emitStep_fail ha, emitStep_fail (s := s.withPanel c n) ha]
    exact emitFail_withPanel op f c n { s with answers := as } r k

theorem engineStep_withPanel :
    ∃ c', engineStep (s.withPanel c n) = mapNext (State.withPanel c' n) (engineStep s) := by
  cases ho : s.inflight with
  | none =>
    rw [engineStep_accept ho, engineStep_accept (s := s.withPanel c n) ho]
    exact ⟨c, (acceptFrame_withPanel c n).acceptStep ho⟩
  | some op =>
    cases hf : op.frames[s.seq]? with
    | some f =>
      rw [engineStep_emit ho hf, engineStep_emit (s := s.withPanel c n) ho hf]
      obtain ⟨c', hc⟩ := emitStep_withPanel op f c n s
      exact ⟨c', congrArg _ hc⟩
    | none =>
      refine ⟨c, ?_⟩
      rw [engineStep_end ho hf, engineStep_end (s := s.withPanel c n) ho hf, apply_ite (mapNext _)]
      rfl

end

/-- Settles O46: an accept step reads the block alone, and what an emit step delivers goes to the controller alone. -/
theorem blockIgnoresTheController : Obligations.BlockIgnoresTheController := by
  intro s c n
  obtain ⟨c', hc⟩ := engineStep_withPanel c n s
  cases he : engineStep s <;> rw [he] at hc
  case next t => exact ⟨c', n, hc⟩
  case fault => exact hc
  case refused => exact hc

/-! ## The machine's own step, whatever turns are listed -/

section
variable (ts : List Turn) (s : State)

theorem toPanel_withTurns (a : BusAddr) (bytes : List Byte) :
    toPanel a bytes (s.withTurns ts) = (toPanel a bytes s).withTurns ts := by
  simp only [toPanel, deliver, apply_ite (State.withTurns ts)]
  rfl

theorem emitStep_withTurns (op : Operation) (f : Frame) :
    emitStep op f (s.withTurns ts) = (emitStep op f s).withTurns ts := by
  match ha : s.answers with
  | [] => rw [emitStep_held ha, emitStep_held (s := s.withTurns ts) ha]
  | .ok :: as =>
    rw [emitStep_ok ha, emitStep_ok (s := s.withTurns ts) ha]
    exact congrArg (fun t : State => { t with seq := t.seq + 1 }) (toPanel_withTurns ts
      { s with answers := as, trace := s.trace ++ [.write op.caller op.addr f .ok] } op.addr f)
  | .fail r k :: as =>
    rw [emitStep_fail ha, emitStep_fail (s := s.withTurns ts) ha]
    exact congrArg (fun t => answerError op.caller .transport (.reason r) (endOperation t)) (toPanel_withTurns ts
      { s with answers := as, trace := s.trace ++ [.write op.caller op.addr f (.fail r k)] } op.addr (f.take k))

theorem engineStep_withTurns : engineStep (s.withTurns ts) = mapNext (State.withTurns ts) (engineStep s) := by
  cases ho : s.inflight with
  | none =>
    rw [engineStep_accept ho, engineStep_accept (s := s.withTurns ts) ho]
    exact (acceptFrame_withTurns ts).acceptStep ho
  | some op =>
    cases hf : op.frames[s.seq]? with
    | some f =>
      rw [engineStep_emit ho hf, engineStep_emit (s := s.withTurns ts) ho hf]
      exact congrArg _ (emitStep_withTurns ts s op f)
    | none =>
      rw [engineStep_end ho hf, engineStep_end (s := s.withTurns ts) ho hf, apply_ite (mapNext _)]
      rfl

theorem fetchCommand_instr {d : CommandDecoded} {past : List Byte → Controller} {i : Instr} {c : Controller}
    (h : fetchCommand d past = .instr i c) : ∃ rest, d = .instr i rest := by
  cases d <;> cases h
  exact ⟨_, rfl⟩

/-- The controller fetches no request (R47). -/
theorem fetch_instr_port {c c' : Controller} {i : Instr} (h : c.fetch = .instr i c') : i.port ≠ .request := by
  cases hrx : c.rx with
  | nil =>
    simp only [Controller.fetch, hrx] at h
    cases h
  | cons b bs =>
    cases hpos : c.rxPos <;> simp only [Controller.fetch, hrx, hpos] at h
    case control =>
      cases hd : decodeControl b <;> rw [hd] at h <;> cases h
      rw [decodeControl_port hd]
      decide
    case singleCommand =>
      obtain ⟨rest, hd⟩ := fetchCommand_instr h
      rw [decodeCommand_port hd]
      decide
    case commandStream =>
      split at h
      · cases h
      · obtain ⟨rest, hd⟩ := fetchCommand_instr h
        rw [decodeCommand_port hd]
        decide
    case singleData => cases h
    case dataStream => cases h

theorem exec_frame_withTurns {i : Instr} (hi : i.port ≠ .request) :
    exec i (s.withTurns ts) = mapNext (State.withTurns ts) (exec i s) := by
  cases i with
  | openSession | closeSession | clear | setText | setBitmap | setQrcode | setContrast | setInversion | reserved00
  | reserved09FF => exact absurd rfl hi
  | setMemMode m =>
    unfold exec execSetMemMode
    dsimp only
    cases AddrMode.ofBits (m.extractLsb' 0 2) <;> rfl
  | _ => rfl

theorem controllerStep_withTurns : controllerStep (s.withTurns ts) = mapNext (State.withTurns ts) (controllerStep s) := by
  have hctl : (s.withTurns ts).ctl = s.ctl := rfl
  unfold controllerStep
  rw [hctl]
  cases hf : s.ctl.fetch with
  | instr i c => exact exec_frame_withTurns ts { s with ctl := c } (fetch_instr_port hf)
  | other c => rfl
  | cut b => rfl
  | refuse r => rfl

theorem internalStep_withTurns : internalStep (s.withTurns ts) = mapNext (State.withTurns ts) (internalStep s) := by
  unfold internalStep
  rw [apply_ite (mapNext _), ← engineStep_withTurns, ← controllerStep_withTurns]
  rfl

end

theorem step_submit {s : State} {c : Nat} {req : Request} {ts : List Turn} (hts : s.turns = .submit c req :: ts)
    (hc : c < s.par.nCallers) :
    step s = if c ∈ s.waiting then internalStep s else .next (submit c req { s with turns := ts }) := by
  unfold step
  rw [hts]
  exact if_pos hc

/-- Settles O29. -/
theorem turnsRunOrSubmit : Obligations.TurnsRunOrSubmit := by
  refine ⟨fun s hts => ?_, fun s ts hts => ?_, fun s c req ts hts hc => ⟨fun hr => ?_, fun hr => ?_⟩, fun s ts => ?_⟩
  · unfold step
    rw [hts]
  · unfold step
    rw [hts]
  · rw [step_submit hts hc, if_neg ((resp_none s c).1 hr)]
    exact ⟨addCaller c s.waiting, rfl, fun d => mem_addCaller c d s.waiting⟩
  · rw [step_submit hts hc, if_pos ((resp_waiting s c).1 hr)]
  · have hmap := internalStep_withTurns ts s
    cases he : internalStep s <;> rw [he] at hmap
    case next t => exact ⟨internalStep_turns he, hmap⟩
    case fault => exact hmap
    case refused => exact hmap

end Sys2Proof.Machine
end

section
/-! What the controller's step does with the next byte, by where that byte stands (R47). -/

namespace Sys2Proof

/-- A byte that begins no command begins none whatever follows it. -/
theorem CommandForm.unknown_of_nil {b : Byte} {d : List Byte → CommandDecoded} (h : CommandForm b d)
    (hd : d [] = .reject (.unknownCommand b)) (bs : List Byte) : d bs = .reject (.unknownCommand b) := by
  cases h <;> cases hd
  rfl

end Sys2Proof

namespace Sys2Proof.Machine

theorem step_of_no_turns {s : State} (h : s.turns = []) : step s = internalStep s := by
  unfold step
  rw [h]

/-! ## What is fetched -/

section
variable {c : Controller} {b : Byte} {bs : List Byte}

theorem fetch_control_row {i : Instr} (hrx : c.rx = b :: bs) (hpos : c.rxPos = .control) (hd : decodeControl b = .ok i) :
    c.fetch = .instr i { c with rx := bs } := by
  simp only [Controller.fetch, hrx, hpos, hd]

theorem fetch_control_other {r : Reject} (hrx : c.rx = b :: bs) (hpos : c.rxPos = .control)
    (hd : decodeControl b = .reject r) : c.fetch = .other { c with rx := bs, rxPos := positionAfter b } := by
  simp only [Controller.fetch, hrx, hpos, hd]

theorem fetch_singleCommand (hrx : c.rx = b :: bs) (hpos : c.rxPos = .singleCommand) :
    c.fetch = fetchCommand (decodeCommand b []) fun _ => { c with rx := bs, rxPos := .control } := by
  simp only [Controller.fetch, hrx, hpos]

theorem fetch_singleData (hrx : c.rx = b :: bs) (hpos : c.rxPos = .singleData) :
    c.fetch = .other (Controller.data { c with rx := bs, rxPos := .control } b) := by
  simp only [Controller.fetch, hrx, hpos]

theorem fetch_commandStream (hrx : c.rx = b :: bs) (hpos : c.rxPos = .commandStream)
    (hd : ∀ b', decodeCommand b bs ≠ .reject (.missingParameter b')) :
    c.fetch = fetchCommand (decodeCommand b bs) fun rest => { c with rx := rest } := by
  simp only [Controller.fetch, hrx, hpos]

theorem fetch_commandStream_cut {b' : Byte} (hrx : c.rx = b :: bs) (hpos : c.rxPos = .commandStream)
    (hd : decodeCommand b bs = .reject (.missingParameter b')) : c.fetch = .cut b := by
  simp only [Controller.fetch, hrx, hpos, hd]

theorem fetch_dataStream (hrx : c.rx = b :: bs) (hpos : c.rxPos = .dataStream) :
    c.fetch = .other (Controller.dataStream { c with rx := [] } (b :: bs)) := by
  simp only [Controller.fetch, hrx, hpos]

end

/-! ## What the step does with it -/

section
variable {s : State} {pos : RxPos} {b : Byte} {bs : List Byte}

theorem internalStep_receiving (h : s.receiving pos (b :: bs)) : internalStep s = controllerStep s :=
  if_neg (by rw [h.1]; exact List.cons_ne_nil b bs)

theorem internalStep_instr {i : Instr} {c : Controller} (h : s.receiving pos (b :: bs)) (hf : s.ctl.fetch = .instr i c) :
    internalStep s = exec i { s with ctl := c } := by
  rw [internalStep_receiving h, controllerStep, hf]

theorem internalStep_other {c : Controller} (h : s.receiving pos (b :: bs)) (hf : s.ctl.fetch = .other c) :
    internalStep s = .next { s with ctl := c } := by
  rw [internalStep_receiving h, controllerStep, hf]

theorem internalStep_cut {b' : Byte} (h : s.receiving pos (b :: bs)) (hf : s.ctl.fetch = .cut b') :
    internalStep s = .next (cutCommand b' s) := by
  rw [internalStep_receiving h, controllerStep, hf]

theorem internalStep_refuse {r : Reject} (h : s.receiving pos (b :: bs)) (hf : s.ctl.fetch = .refuse r) :
    internalStep s = .refused (.observerRefuses r) := by
  rw [internalStep_receiving h, controllerStep, hf]

theorem internalStep_controlRow {i : Instr} (h : s.receiving .control (b :: bs)) (hd : decodeControl b = .ok i) :
    internalStep s = exec i { s with ctl := { s.ctl with rx := bs } } :=
  internalStep_instr h (fetch_control_row h.1 h.2 hd)

theorem internalStep_singleCommand {i : Instr} {rest : List Byte} (h : s.receiving .singleCommand (b :: bs))
    (hd : decodeCommand b [] = .instr i rest) :
    internalStep s = exec i { s with ctl := { s.ctl with rx := bs, rxPos := .control } } :=
  internalStep_instr h (by rw [fetch_singleCommand h.1 h.2, hd, fetchCommand])

theorem internalStep_singleExtra {x : ExtraCommand} {rest : List Byte} (h : s.receiving .singleCommand (b :: bs))
    (hd : decodeCommand b [] = .extra x rest) :
    internalStep s = .next { s with ctl := Controller.extra { s.ctl with rx := bs, rxPos := .control } x } :=
  internalStep_other h (by rw [fetch_singleCommand h.1 h.2, hd, fetchCommand])

theorem internalStep_singleReject {r : Reject} (h : s.receiving .singleCommand (b :: bs))
    (hd : decodeCommand b [] = .reject r) : internalStep s = .refused (.observerRefuses r) :=
  internalStep_refuse h (by rw [fetch_singleCommand h.1 h.2, hd, fetchCommand])

theorem internalStep_command {i : Instr} {rest : List Byte} (h : s.receiving .commandStream (b :: bs))
    (hd : decodeCommand b bs = .instr i rest) :
    internalStep s = exec i { s with ctl := { s.ctl with rx := rest } } :=
  internalStep_instr h (by rw [fetch_commandStream h.1 h.2 (by simp [hd]), hd, fetchCommand])

theorem internalStep_extra {x : ExtraCommand} {rest : List Byte} (h : s.receiving .commandStream (b :: bs))
    (hd : decodeCommand b bs = .extra x rest) :
    internalStep s = .next { s with ctl := Controller.extra { s.ctl with rx := rest } x } :=
  internalStep_other h (by rw [fetch_commandStream h.1 h.2 (by simp [hd]), hd, fetchCommand])

theorem internalStep_unknownCommand (h : s.receiving .commandStream (b :: bs))
    (hd : decodeCommand b bs = .reject (.unknownCommand b)) :
    internalStep s = .refused (.observerRefuses (.unknownCommand b)) :=
  internalStep_refuse h (by rw [fetch_commandStream h.1 h.2 (by simp [hd]), hd, fetchCommand])

theorem internalStep_dataStream (h : s.receiving .dataStream (b :: bs)) :
    internalStep s = .next { s with ctl := Controller.dataStream { s.ctl with rx := [] } (b :: bs) } :=
  internalStep_other h (fetch_dataStream h.1 h.2)

end

/-- Settles O27. -/
theorem stepRunsTheFrameByte : Obligations.StepRunsTheFrameByte := by
  intro s b bs i
  exact ⟨internalStep_controlRow, fun h rest hd => internalStep_singleCommand h hd,
    fun h rest hd => internalStep_command h hd, step_of_no_turns⟩

/-! ## The bytes that are no row of the table -/

theorem toNat_extractLow {n : Nat} (a : Byte) : (a.extractLsb' 0 n).toNat = a.toNat % 2 ^ n := by
  rw [BitVec.extractLsb'_toNat, Nat.shiftRight_zero]

theorem decodeControl_other {b : Byte} (h80 : b ≠ 0x80) (h00 : b ≠ 0x00) (h40 : b ≠ 0x40) :
    decodeControl b = .reject (.unknownControl b) := by
  simp only [decodeControl, h80, h00, h40, if_false]

/-- Bits 7 and 6 of a control byte, as the quarter of the byte range that it lies in. -/
theorem positionAfter_eq : ∀ b : Byte, positionAfter b =
    if b.toNat < 64 then .commandStream else if b.toNat < 128 then .dataStream
    else if b.toNat < 192 then .singleCommand else .singleData := by decide

theorem decodeCommand_nil_of_unlisted : ∀ b : Byte, unlisted b → decodeCommand b [] = .reject (.unknownCommand b) := by
  unfold unlisted
  decide

/-- Settles O37: each clause is the rule of the position that the byte stands in. -/
theorem observerTakesTheOtherBytes : Obligations.ObserverTakesTheOtherBytes := by
  refine ⟨fun s a b bs h => ?_, fun s a b bs h => ?_, fun s b bs hb => ⟨fun h => ?_, fun h => ?_⟩,
    fun s b bs h h80 h00 h40 => ?_, fun s b bs h => ?_, fun s b bs h => ?_, fun s b bs hb h => ?_, fun s b bs h hd => ?_⟩
  · exact ⟨_, _, toNat_extractLow a, toNat_extractLow b, internalStep_extra (x := .columnRange a b) h rfl⟩
  · exact ⟨_, _, toNat_extractLow a, toNat_extractLow b, internalStep_extra (x := .pageRange a b) h rfl⟩
  · obtain rfl | rfl := hb <;> exact internalStep_extra h rfl
  · obtain rfl | rfl := hb <;> exact internalStep_singleExtra h rfl
  · rw [← positionAfter_eq]
    exact internalStep_other h (fetch_control_other h.1 h.2 (decodeControl_other h80 h00 h40))
  · exact internalStep_other h (fetch_singleData h.1 h.2)
  · exact internalStep_dataStream h
  · have hnil := decodeCommand_nil_of_unlisted b hb
    obtain h | h := h
    · exact internalStep_unknownCommand h ((decodeCommand_form b).unknown_of_nil hnil bs)
    · exact internalStep_singleReject h hnil
  · exact internalStep_singleReject h hd

/-! ## A command that is cut off (R50, R140) -/

/-- A test for another byte that changes nothing may be left out. -/
theorem ite_skip {α : Type} {b j k : Byte} {v x : α} (h : j ≠ k) :
    (if b = j then x else if b = k then v else x) = if b = k then v else x := by
  by_cases hb : b = j
  · rw [if_pos hb, if_neg (hb ▸ h)]
  · rw [if_neg hb]

section
variable (c : Controller) (n : Nat) (b : Byte)

@[simp] theorem cutShort_inverted : (c.cutShort n b).inverted = c.inverted := by
  simp only [Controller.cutShort, apply_ite Controller.inverted, ite_self]

@[simp] theorem cutShort_on : (c.cutShort n b).on = c.on := by
  simp only [Controller.cutShort, apply_ite Controller.on, ite_self]

@[simp] theorem cutShort_segRemap : (c.cutShort n b).segRemap = c.segRemap := by
  simp only [Controller.cutShort, apply_ite Controller.segRemap, ite_self]

@[simp] theorem cutShort_comScan : (c.cutShort n b).comScan = c.comScan := by
  simp only [Controller.cutShort, apply_ite Controller.comScan, ite_self]

@[simp] theorem cutShort_startLine : (c.cutShort n b).startLine = c.startLine := by
  simp only [Controller.cutShort, apply_ite Controller.startLine, ite_self]

@[simp] theorem cutShort_entire : (c.cutShort n b).entire = c.entire := by
  simp only [Controller.cutShort, apply_ite Controller.entire, ite_self]

variable {b}

theorem cutShort_amode (hb : b ≠ 0x20) : (c.cutShort n b).amode = c.amode := by
  simp only [Controller.cutShort, apply_ite Controller.amode, ite_self, if_neg hb]

theorem cutShort_columns (hb : b ≠ 0x21) : (c.cutShort n b).colStart = c.colStart ∧
    (c.cutShort n b).colEnd = c.colEnd ∧ (c.cutShort n b).colPtr = c.colPtr := by
  simp only [Controller.cutShort, apply_ite Controller.colStart, apply_ite Controller.colEnd,
    apply_ite Controller.colPtr, ite_self, if_neg hb, and_self]

theorem cutShort_pages (hb : b ≠ 0x22) : (c.cutShort n b).pageStart = c.pageStart ∧
    (c.cutShort n b).pageEnd = c.pageEnd ∧ (c.cutShort n b).pagePtr = c.pagePtr := by
  simp only [Controller.cutShort, apply_ite Controller.pageStart, apply_ite Controller.pageEnd,
    apply_ite Controller.pagePtr, ite_self, if_neg hb, and_self]

variable (b)

theorem cutShort_contrast : (c.cutShort n b).contrast = if b = 0x81 then Config.freeByte n else c.contrast := by
  simp only [Controller.cutShort, apply_ite Controller.contrast, ite_self, Nat.add_zero]
  simp (disch := decide) only [ite_skip]

theorem cutShort_chargePump : (c.cutShort n b).chargePump = if b = 0x8D then Config.freeByte n else c.chargePump := by
  simp only [Controller.cutShort, apply_ite Controller.chargePump, ite_self, Nat.add_zero]
  simp (disch := decide) only [ite_skip]

theorem cutShort_muxRatio : (c.cutShort n b).muxRatio = if b = 0xA8 then Config.freeByte n else c.muxRatio := by
  simp only [Controller.cutShort, apply_ite Controller.muxRatio, ite_self, Nat.add_zero]
  simp (disch := decide) only [ite_skip]

theorem cutShort_offset : (c.cutShort n b).offset = if b = 0xD3 then Config.freeByte n else c.offset := by
  simp only [Controller.cutShort, apply_ite Controller.offset, ite_self, Nat.add_zero]
  simp (disch := decide) only [ite_skip]

theorem cutShort_clockDiv : (c.cutShort n b).clockDiv = if b = 0xD5 then Config.freeByte n else c.clockDiv := by
  simp only [Controller.cutShort, apply_ite Controller.clockDiv, ite_self, Nat.add_zero]
  simp (disch := decide) only [ite_skip]

theorem cutShort_precharge : (c.cutShort n b).precharge = if b = 0xD9 then Config.freeByte n else c.precharge := by
  simp only [Controller.cutShort, apply_ite Controller.precharge, ite_self, Nat.add_zero]
  simp (disch := decide) only [ite_skip]

theorem cutShort_comPins : (c.cutShort n b).comPins = if b = 0xDA then Config.freeByte n else c.comPins := by
  simp only [Controller.cutShort, apply_ite Controller.comPins, ite_self, Nat.add_zero]
  simp (disch := decide) only [ite_skip]

theorem cutShort_vcomh : (c.cutShort n b).vcomh = if b = 0xDB then Config.freeByte n else c.vcomh := by
  simp only [Controller.cutShort, apply_ite Controller.vcomh, Nat.add_zero]
  simp (disch := decide) only [ite_skip]

end

/-- Settles O36. -/
theorem cutCommandFreesItsRegisters : Obligations.CutCommandFreesItsRegisters := by
  intro s b bs h hd
  exact ⟨s.ctl.cutShort s.draws b, internalStep_cut h (fetch_commandStream_cut h.1 h.2 hd), rfl,
    cutShort_ram .., cutShort_rxPos .., cutShort_inverted .., cutShort_on .., cutShort_segRemap .., cutShort_comScan ..,
    cutShort_startLine .., cutShort_entire .., cutShort_amode _ _, cutShort_columns _ _, cutShort_pages _ _,
    cutShort_contrast .., cutShort_chargePump .., cutShort_muxRatio .., cutShort_offset .., cutShort_clockDiv ..,
    cutShort_precharge .., cutShort_comPins .., cutShort_vcomh ..⟩

end Sys2Proof.Machine
end

section
/-! What the controller commands do, and what each of them leaves (R48). -/

namespace Sys2Proof.Machine

/-! ## The settings and the display mode -/

/-- Settles O22. -/
theorem settingsLatchTheirShadow : Obligations.SettingsLatchTheirShadow := by
  intro s v
  refine ⟨rfl, rfl, rfl, rfl, rfl, rfl, rfl, fun line => ⟨line.zeroExtend 8, ?_, rfl⟩, fun r => rfl, fun d => rfl⟩
  exact BitVec.toNat_setWidth_of_le (by decide)

theorem exec_setMemMode {m : Byte} {a : AddrMode} (s : State) (h : AddrMode.ofBits (m.extractLsb' 0 2) = some a) :
    exec (.setMemMode m) s = .next { s with ctl := { s.ctl with amode := a } } := by
  rw [exec, execSetMemMode, h]
  rfl

theorem exec_setMemMode_undefined {m : Byte} (s : State) (h : AddrMode.ofBits (m.extractLsb' 0 2) = none) :
    exec (.setMemMode m) s = .refused .observerModeUndefined := by
  rw [exec, execSetMemMode, h]

theorem extractMode_eq {m : Byte} {k : BitVec 2} (h : m.toNat % 4 = k.toNat) : m.extractLsb' 0 2 = k :=
  BitVec.eq_of_toNat_eq ((toNat_extractLow m).trans h)

/-- Settles O24. -/
theorem displayModeCommands : Obligations.DisplayModeCommands := by
  refine fun s => ⟨fun v => rfl, rfl, rfl, rfl, rfl, fun m h => ?_, fun m h => ?_, fun m h => ?_, fun m h => ?_⟩
  · exact exec_setMemMode s (by rw [extractMode_eq (k := 0b00) h]; rfl)
  · exact exec_setMemMode s (by rw [extractMode_eq (k := 0b01) h]; rfl)
  · exact exec_setMemMode s (by rw [extractMode_eq (k := 0b10) h]; rfl)
  · exact exec_setMemMode_undefined s (by rw [extractMode_eq (k := 0b11) h]; rfl)

/-! ## The cursor -/

theorem column_and_high : ∀ x : Column, (x &&& 0x70).toNat = (x.toNat / 16) <<< 4 := by decide

theorem column_and_low : ∀ x : Column, (x &&& 0x0F).toNat = x.toNat % 16 := by decide

theorem setColHi_shift : ∀ n : BitVec 3, (n.zeroExtend 7 <<< 4).toNat = n.toNat <<< 4 := by decide

/-- The high three bits and the low four of a column, put together. -/
theorem column_or {x y : Column} {hi lo : Nat} (hx : x.toNat = hi <<< 4) (hy : y.toNat = lo) (hlo : lo < 16) :
    (x ||| y).toNat = 16 * hi + lo := by
  rw [BitVec.toNat_or, hx, hy, ← Nat.shiftLeft_add_eq_or_of_lt hlo, Nat.shiftLeft_eq, Nat.mul_comm]

/-- Settles O23: the two parts of the column pointer have no bit in common. -/
theorem pointerCommandsMoveTheCursor : Obligations.PointerCommandsMoveTheCursor := by
  refine fun s => ⟨fun n => rfl, fun n => ⟨_, ?_, rfl⟩, fun n => ⟨_, ?_, rfl⟩⟩
  · exact column_or (column_and_high _) (BitVec.toNat_setWidth_of_le (by decide)) n.isLt
  · exact column_or (setColHi_shift n) (column_and_low _) (Nat.mod_lt _ (by decide))

/-! ## The frame of the rows -/

/-- Settles O25: each row is one update of the controller, and the update of no other register is its own. -/
theorem controllerRowsChangeOnlyTheirRegister : Obligations.ControllerRowsChangeOnlyTheirRegister := by
  intro i s t hi h
  cases i with
  | openSession | closeSession | clear | setText | setBitmap | setQrcode | setContrast | setInversion | reserved00
  | reserved09FF => exact absurd rfl hi
  | setMemMode m =>
    cases hm : AddrMode.ofBits (m.extractLsb' 0 2) with
    | some a =>
      cases (exec_setMemMode s hm).symm.trans h
      simp
    | none => cases (exec_setMemMode_undefined s hm).symm.trans h
  | _ =>
    cases h
    simp [Instr.port]

/-! ## The panel reset and the picture (R46, R52) -/

theorem step_panelReset {s : State} {ts : List Turn} (h : s.turns = .panelReset :: ts) :
    step s = .next { s with turns := ts, ctl := .afterReset } := by
  unfold step
  rw [h]
  rfl

theorem shown_of_read {c : Controller} {x y : Nat} {b : Byte} (hon : c.on = true)
    (hb : Memory.read c.ram (128 * (y / 8) + x) = some b) : c.shown x y = some (b.getLsbD (y % 8) != c.inverted) := by
  rw [shown_on hon, Controller.pixel, hb]
  rfl

theorem shown_of_unknown {c : Controller} {x y : Nat} (hon : c.on = true)
    (hb : Memory.read c.ram (128 * (y / 8) + x) = none) : c.shown x y = none := by
  rw [shown_on hon, Controller.pixel, hb]
  rfl

/-- Settles O35. -/
theorem panelResetDarkensThePicture : Obligations.PanelResetDarkensThePicture := by
  refine ⟨fun s ts h => ⟨.afterReset, step_panelReset h, ?_⟩, fun c x y => ⟨fun h => shown_off h x y, fun b => shown_of_read,
    shown_of_unknown⟩⟩
  exact ⟨rfl, rfl, rfl, rfl, rfl, rfl, rfl, rfl, rfl, rfl, rfl, Memory.read_nil, shown_off rfl⟩

/-! ## The advance of the cursor (R49) -/

section
variable {c : Controller}

theorem nextCol_inside (h : c.colPtr.toNat < c.colEnd.toNat) : c.nextCol.toNat = c.colPtr.toNat + 1 := by
  have hend := c.colEnd.isLt
  rw [Controller.nextCol, if_neg (by omega), BitVec.toNat_add_of_lt (by simp; omega)]
  rfl

theorem nextCol_atEnd (h : c.colEnd.toNat ≤ c.colPtr.toNat) : c.nextCol = c.colStart := by
  rw [Controller.nextCol, if_pos (by omega)]

theorem nextPage_inside (h : c.pagePtr.toNat < c.pageEnd.toNat) : c.nextPage.toNat = c.pagePtr.toNat + 1 := by
  have hend := c.pageEnd.isLt
  rw [Controller.nextPage, if_neg (by omega), BitVec.toNat_add_of_lt (by simp; omega)]
  rfl

theorem nextPage_atEnd (h : c.pageEnd.toNat ≤ c.pagePtr.toNat) : c.nextPage = c.pageStart := by
  rw [Controller.nextPage, if_pos (by omega)]

variable (b : Byte)

theorem data_horizontal_inside (hm : c.amode = .horizontal) (h : c.colPtr.toNat < c.colEnd.toNat) :
    (c.data b).colPtr = c.nextCol ∧ (c.data b).pagePtr = c.pagePtr := by
  simp only [Controller.data, Controller.advance, hm, if_neg (show ¬ c.colEnd.toNat < c.colPtr.toNat + 1 by omega)]
  exact ⟨rfl, trivial⟩

theorem data_horizontal_atEnd (hm : c.amode = .horizontal) (h : c.colEnd.toNat ≤ c.colPtr.toNat) :
    (c.data b).colPtr = c.nextCol ∧ (c.data b).pagePtr = c.nextPage := by
  simp only [Controller.data, Controller.advance, hm, if_pos (show c.colEnd.toNat < c.colPtr.toNat + 1 by omega)]
  exact ⟨rfl, rfl⟩

theorem data_vertical_inside (hm : c.amode = .vertical) (h : c.pagePtr.toNat < c.pageEnd.toNat) :
    (c.data b).colPtr = c.colPtr ∧ (c.data b).pagePtr = c.nextPage := by
  simp only [Controller.data, Controller.advance, hm, if_neg (show ¬ c.pageEnd.toNat < c.pagePtr.toNat + 1 by omega)]
  exact ⟨trivial, rfl⟩

theorem data_vertical_atEnd (hm : c.amode = .vertical) (h : c.pageEnd.toNat ≤ c.pagePtr.toNat) :
    (c.data b).colPtr = c.nextCol ∧ (c.data b).pagePtr = c.nextPage := by
  simp only [Controller.data, Controller.advance, hm, if_pos (show c.pageEnd.toNat < c.pagePtr.toNat + 1 by omega)]
  exact ⟨rfl, rfl⟩

theorem data_page (hm : c.amode = .page) : (c.data b).colPtr = c.nextCol ∧ (c.data b).pagePtr = c.pagePtr := by
  simp only [Controller.data, Controller.advance, hm]
  exact ⟨rfl, trivial⟩

variable (c)

theorem advance_eq : c.advance = { c with colPtr := c.advance.colPtr, pagePtr := c.advance.pagePtr } := by
  unfold Controller.advance
  cases c.amode <;> dsimp only <;> split_ifs <;> rfl

/-- A data byte changes the display memory and the cursor only. -/
theorem data_eq :
    c.data b = { c with ram := (c.data b).ram, colPtr := (c.data b).colPtr, pagePtr := (c.data b).pagePtr } := by
  simp only [Controller.data]
  rw [advance_eq]

theorem read_data (a : Nat) : Memory.read (c.data b).ram a =
    if a = 128 * c.pagePtr.toNat + c.colPtr.toNat then some b else Memory.read c.ram a := by
  rw [data_ram, Memory.read_write, ramAddr]

end

/-- Settles O54. -/
theorem dataWritesAndAdvances : Obligations.DataWritesAndAdvances := by
  refine fun c b => ⟨read_data c b, data_eq c b, fun hm => ⟨fun h => ?_, fun h => ?_⟩, fun hm => ⟨fun h => ?_, fun h => ?_⟩,
    fun hm => ?_⟩
  · obtain ⟨hcol, hpage⟩ := data_horizontal_inside b hm h
    exact ⟨hcol ▸ nextCol_inside h, hpage⟩
  · obtain ⟨hcol, hpage⟩ := data_horizontal_atEnd b hm h
    exact ⟨hcol ▸ nextCol_atEnd h, hpage ▸ nextPage_inside, hpage ▸ nextPage_atEnd⟩
  · obtain ⟨hcol, hpage⟩ := data_vertical_inside b hm h
    exact ⟨hpage ▸ nextPage_inside h, hcol⟩
  · obtain ⟨hcol, hpage⟩ := data_vertical_atEnd b hm h
    exact ⟨hpage ▸ nextPage_atEnd h, hcol ▸ nextCol_inside, hcol ▸ nextCol_atEnd⟩
  · obtain ⟨hcol, hpage⟩ := data_page b hm
    exact ⟨hpage, hcol ▸ nextCol_inside, hcol ▸ nextCol_atEnd⟩

end Sys2Proof.Machine
end

section
/-! Runs of the machine: a delivered frame is taken in whole, and an operation whose writes succeed ends (R37, R108, R109). -/

namespace Sys2Proof.Machine

/-! ## Runs -/

/-- The machine gets from `s` to `t` by steps. -/
def Reaches : State → State → Prop := Relation.ReflTransGen fun s t => step s = .next t

theorem run_succ {M : Host.Core} {s u : M.State} (h : M.step s = .next u) (k : Nat) : M.run (k + 1) s = M.run k u := by
  rw [Host.Core.run, h]

theorem Reaches.run {s t : State} (h : Reaches s t) : ∃ k, Host.Core.run core k s = .next t := by
  induction h using Relation.ReflTransGen.head_induction_on with
  | refl => exact ⟨0, rfl⟩
  | head hstep _ ih =>
    obtain ⟨k, hk⟩ := ih
    exact ⟨k + 1, (run_succ (M := core) hstep k).trans hk⟩

theorem internalStep_engine {s : State} (h : s.engineNext) : internalStep s = engineStep s := if_pos h

/-- A run goes on with the machine's own step where no turn is listed. -/
theorem Reaches.internal {s u t : State} (ht : s.turns = []) (h : internalStep s = .next u) (hut : Reaches u t) :
    Reaches s t := Relation.ReflTransGen.head ((step_of_no_turns ht).trans h) hut

/-! ## The controller takes in readable bytes whole (R47, R50) -/

theorem exec_frame_goes {i : Instr} (hi : i.port ≠ .request) (hdef : commandDefined i = true) (s : State) :
    ∃ t, exec i s = .next t := by
  cases i with
  | openSession | closeSession | clear | setText | setBitmap | setQrcode | setContrast | setInversion | reserved00
  | reserved09FF => exact absurd rfl hi
  | setMemMode m =>
    obtain ⟨a, ha⟩ := Option.isSome_iff_exists.1 hdef
    exact ⟨_, exec_setMemMode s ha⟩
  | _ => exact ⟨_, rfl⟩

theorem commandDefined_of_control {i : Instr} (hi : i.port = .control) : commandDefined i = true := by
  cases i with
  | setMemMode m => cases hi
  | _ => rfl

theorem internalStep_row_goes {s : State} {pos : RxPos} {b : Byte} {bs : List Byte} {i : Instr} {c : Controller}
    (h : s.receiving pos (b :: bs)) (hf : s.ctl.fetch = .instr i c) (hdef : commandDefined i = true) :
    ∃ t, internalStep s = .next t ∧ t.ctl.rx = c.rx := by
  have hi := fetch_instr_port hf
  obtain ⟨t, hx⟩ := exec_frame_goes hi hdef { s with ctl := c }
  obtain ⟨c', rfl, -, hrx, -⟩ := exec_frame_next hi hx
  exact ⟨_, (internalStep_instr h hf).trans hx, hrx⟩

/-- A byte that the observer can read is taken in, with the parameters that belong to it. -/
theorem internalStep_takesIn {s : State} {pos : RxPos} {b : Byte} {bs : List Byte} (h : s.receiving pos (b :: bs))
    (hread : Readable pos (b :: bs)) : ∃ t, internalStep s = .next t ∧ t.ctl.rx.length ≤ bs.length := by
  have row {i : Instr} {c : Controller} (hf : s.ctl.fetch = .instr i c) (hdef : commandDefined i = true)
      (hlen : c.rx.length ≤ bs.length) : ∃ t, internalStep s = .next t ∧ t.ctl.rx.length ≤ bs.length := by
    obtain ⟨t, ht, hrx⟩ := internalStep_row_goes h hf hdef
    exact ⟨t, ht, hrx ▸ hlen⟩
  cases pos with
  | control =>
    cases hd : decodeControl b with
    | ok i => exact row (fetch_control_row h.1 h.2 hd) (commandDefined_of_control (decodeControl_port hd)) le_rfl
    | reject r => exact ⟨_, internalStep_other h (fetch_control_other h.1 h.2 hd), le_rfl⟩
  | singleCommand =>
    cases hd : decodeCommand b [] with
    | instr i rest =>
      obtain ⟨hdef, -⟩ := (readable_singleCommand_instr hd).1 hread
      exact row (by rw [fetch_singleCommand h.1 h.2, hd, fetchCommand]) hdef le_rfl
    | extra x rest => exact ⟨_, internalStep_singleExtra h hd, by simp⟩
    | reject r => simp [Readable, readable, hd] at hread
  | singleData => exact ⟨_, internalStep_other h (fetch_singleData h.1 h.2), by simp⟩
  | commandStream =>
    have hlen := (decodeCommand_form b).rest_length_le bs
    cases hd : decodeCommand b bs with
    | instr i rest =>
      obtain ⟨hdef, -⟩ := (readable_commandStream_instr hd).1 hread
      rw [hd] at hlen
      exact row (by rw [fetch_commandStream h.1 h.2 (by simp [hd]), hd, fetchCommand]) hdef hlen
    | extra x rest =>
      rw [hd] at hlen
      exact ⟨_, internalStep_extra h hd, by simpa using hlen⟩
    | reject r =>
      cases r with
      | missingParameter b' => exact ⟨_, internalStep_cut h (fetch_commandStream_cut h.1 h.2 hd), by simp⟩
      | _ => simp [Readable, readable, hd] at hread
  | dataStream => exact ⟨_, internalStep_dataStream h, by simp⟩

/-- Without a turn of the outside, the panel takes in all that it was sent. Nothing else changes, and the panel then has `P`. -/
def State.settles (s : State) (P : Controller → Prop) : Prop :=
  ∃ c n, Reaches s (s.withPanel c n) ∧ c.rx = [] ∧ P c

theorem settles_ok {s : State} (ht : s.turns = []) (hok : s.ctl.ok) : s.settles Controller.ok := by
  induction hn : s.ctl.rx.length using Nat.strong_induction_on generalizing s with
  | _ n ih =>
    cases hrx : s.ctl.rx with
    | nil => exact ⟨s.ctl, s.draws, .refl, hrx, hok⟩
    | cons b bs =>
      obtain ⟨t, hst, hlen⟩ := internalStep_takesIn ⟨hrx, rfl⟩ (hrx ▸ hok.2)
      obtain ⟨he, -⟩ | ⟨-, hc, c, m, rfl⟩ := internalStep_next hst
      · exact absurd (hrx.symm.trans he) (List.cons_ne_nil b bs)
      · have hless : c.rx.length < n := by
          rw [← hn, hrx]
          exact Nat.lt_succ_of_le hlen
        obtain ⟨c', m', hreach, hdone, hok'⟩ := ih c.rx.length hless (s := s.withPanel c m) ht
          (controllerStep_ctl_ok hok hc) rfl
        exact ⟨c', m', .internal ht hst hreach, hdone, hok'⟩

/-! ## An operation whose writes succeed -/

theorem writesOf_append (es fs : List Event) : writesOf (es ++ fs) = writesOf es ++ writesOf fs := by
  induction es with
  | nil => rfl
  | cons e es ih => cases e <;> simp [writesOf, ih]

/-- In `t` the operation `op`, in flight in `s`, has written its remaining frames and is answered Ok. -/
structure Completed (s : State) (op : Operation) (rest : List Answer) (t : State) : Prop where
  inflight : t.inflight = none
  reg : t.reg = applyCommit s.reg op.commit
  queue : t.queue = s.queue
  answers : t.answers = rest
  writes : writesOf t.trace = writesOf s.trace ++ (op.frames.drop s.seq).map fun f => (op.addr, f)
  answered : ∃ es, t.trace = es ++ [.respond op.caller .ok]

theorem completeStep_completed {s : State} {op : Operation} (hs : s.seq = op.frames.length) :
    Completed s op s.answers (completeStep op s) where
  inflight := rfl
  reg := rfl
  queue := rfl
  answers := rfl
  writes := by simp [writesOf_append, writesOf, hs]
  answered := ⟨s.trace, rfl⟩

/-- `s` after the transport took the frame `f` of `op`, before the panel has any of it (R108). -/
def afterWrite (op : Operation) (f : Frame) (as : List Answer) (s : State) : State :=
  { s with answers := as, trace := s.trace ++ [.write op.caller op.addr f .ok], seq := s.seq + 1 }

theorem emitOk_eq_afterWrite (op : Operation) (f : Frame) (as : List Answer) (s : State) :
    emitOk op f { s with answers := as } = toPanel op.addr f (afterWrite op f as s) := by
  unfold emitOk toPanel deliver afterWrite
  dsimp only
  split_ifs <;> rfl

theorem Completed.of_afterWrite {s t : State} {op : Operation} {f : Frame} {as rest : List Answer} {c : Controller}
    {n : Nat} (hf : op.frames[s.seq]? = some f) (h : Completed ((afterWrite op f as s).withPanel c n) op rest t) :
    Completed s op rest t where
  inflight := h.inflight
  reg := h.reg
  queue := h.queue
  answers := h.answers
  writes := by
    obtain ⟨hlt, rfl⟩ := List.getElem?_eq_some_iff.1 hf
    calc writesOf t.trace
      _ = writesOf (s.trace ++ [.write op.caller op.addr op.frames[s.seq] .ok]) ++
          (op.frames.drop (s.seq + 1)).map fun f => (op.addr, f) := h.writes
      _ = writesOf s.trace ++ (op.frames.drop s.seq).map fun f => (op.addr, f) := by
        rw [List.drop_eq_getElem_cons hlt, List.map_cons, writesOf_append, List.append_assoc]
        rfl
  answered := h.answered

theorem toPanel_settles_iff {a : BusAddr} {f : Frame} {s : State} {P : Controller → Prop} :
    (toPanel a f s).settles P ↔ ∃ c n, Reaches (toPanel a f s) (s.withPanel c n) ∧ c.rx = [] ∧ P c := by
  unfold State.settles
  have h (c : Controller) (n : Nat) : (toPanel a f s).withPanel c n = s.withPanel c n := by rw [toPanel_eq]; rfl
  simp only [h]

/-- An operation whose writes succeed runs to its end. If each frame that is written takes the panel from `I i` to `I (i + 1)`,
the panel ends in `I` of all frames. -/
theorem operation_completes {op : Operation} {p : Params} {I : Nat → Controller → Prop}
    (hI : ∀ i f, op.frames[i]? = some f → ∀ s : State, s.turns = [] → s.par = p → s.ctl.rx = [] → I i s.ctl →
      (toPanel op.addr f s).settles (I (i + 1)))
    {s : State} {rest : List Answer} (ht : s.turns = []) (hp : s.par = p) (ho : s.inflight = some op)
    (hseq : s.seq ≤ op.frames.length) (ha : s.answers = List.replicate (op.frames.length - s.seq) .ok ++ rest)
    (hrx : s.ctl.rx = []) (hs : I s.seq s.ctl) :
    ∃ t, Reaches s t ∧ Completed s op rest t ∧ t.ctl.rx = [] ∧ I op.frames.length t.ctl := by
  induction hn : op.frames.length - s.seq generalizing s with
  | zero =>
    have hend : s.seq = op.frames.length := by omega
    have hstep : internalStep s = .next (completeStep op s) := by
      rw [internalStep_engine hrx, engineStep_end ho (List.getElem?_eq_none hend.ge), if_pos hend]
    obtain rfl : s.answers = rest := by rw [ha, hn]; rfl
    exact ⟨completeStep op s, .internal ht hstep .refl, completeStep_completed hend, hrx, hend ▸ hs⟩
  | succ n ih =>
    obtain ⟨f, hf⟩ : ∃ f, op.frames[s.seq]? = some f := ⟨_, List.getElem?_eq_getElem (by omega)⟩
    obtain ⟨as, has⟩ : ∃ as, as = List.replicate n .ok ++ rest := ⟨_, rfl⟩
    rw [hn, List.replicate_succ, List.cons_append, ← has] at ha
    have hstep : internalStep s = .next (toPanel op.addr f (afterWrite op f as s)) := by
      rw [internalStep_engine hrx, engineStep_emit ho hf, emitStep_ok ha, emitOk_eq_afterWrite]
    obtain ⟨c, m, hreach, hrx', hc⟩ := toPanel_settles_iff.1 (hI s.seq f hf (afterWrite op f as s) ht hp hrx hs)
    have hleft : op.frames.length - (s.seq + 1) = n := by omega
    obtain ⟨t, hut, hdone, hend⟩ := ih (s := (afterWrite op f as s).withPanel c m) ht hp ho
      (show s.seq + 1 ≤ op.frames.length by omega)
      (show as = List.replicate (op.frames.length - (s.seq + 1)) .ok ++ rest by rw [hleft, has])
      hrx' hc hleft
    exact ⟨t, .internal ht hstep (Relation.ReflTransGen.trans hreach hut), hdone.of_afterWrite hf, hend⟩

/-- Settles O51: the panel first takes in what it has, and every frame of the operation is one that it can take in. -/
theorem operationRunsToCompletion : Obligations.OperationRunsToCompletion := by
  intro s op rest hinv ht ho ha
  have hreadable := hinv.framesReadable op ho
  obtain ⟨-, -, hop, -, -, hok⟩ := hinv
  obtain ⟨c, n, hsu, hrx, hc⟩ := settles_ok ht hok
  obtain ⟨t, hut, hdone, -⟩ := operation_completes (I := fun _ => Controller.ok) (s := s.withPanel c n)
    (fun i f hf u hu _ _ hok => settles_ok ((toPanel_turns ..).trans hu)
      (toPanel_ctl_ok (hreadable f (List.mem_of_getElem? hf)) op.addr hok))
    ht rfl ho (hop op ho).1 ha hrx hc
  obtain ⟨k, hk⟩ := Reaches.run (hsu.trans hut)
  exact ⟨k, t, hk, hdone.inflight, hdone.reg, hdone.queue, hdone.answers, hdone.writes, hdone.answered⟩

end Sys2Proof.Machine
end

section
/-! No operation's writes are split by another's (R38). -/

namespace Sys2Proof.Machine

/-! ## The trace as a chain -/

/-- `y` may come right after `x`: a write or a response after a write is of the same caller. -/
def Event.precedes : Event → Event → Prop
  | .write c _ _ _, .write d _ _ _ => c = d
  | .write c _ _ _, .respond d _ => c = d
  | _, _ => True

theorem contiguous_iff_isChain (es : List Event) : contiguous es ↔ es.IsChain Event.precedes := by
  induction es with
  | nil => simp [contiguous]
  | cons x es ih =>
    cases es with
    | nil => simp [contiguous]
    | cons y es =>
      rw [List.isChain_cons_cons, ← ih]
      cases x <;> cases y <;> simp [contiguous, Event.precedes]

/-- If the event is a write, it is one of the operation in flight. -/
def Event.ownedBy (o : Option Operation) : Event → Prop
  | .write c _ _ _ => ∃ op, o = some op ∧ op.caller = c
  | _ => True

theorem traceOk_iff (s : State) :
    s.traceOk ↔ s.trace.IsChain Event.precedes ∧ ∀ e ∈ s.trace.getLast?, e.ownedBy s.inflight := by
  unfold State.traceOk
  rw [contiguous_iff_isChain]
  refine and_congr_right fun _ => ⟨fun h e he => ?_, fun h es c a f r htrace => ?_⟩
  · obtain ⟨es, htrace⟩ := List.getLast?_eq_some_iff.1 he
    cases e with
    | write c a f r => exact h es c a f r htrace
    | _ => trivial
  · exact h (.write c a f r) (by rw [htrace, List.getLast?_concat]; rfl)

/-! ## What may follow in which state -/

section
variable {x : Event} {op : Operation}

theorem Event.ownedBy_of_none (h : x.ownedBy none) (o : Option Operation) : x.ownedBy o := by
  cases x with
  | write => obtain ⟨op, ho, -⟩ := h; cases ho
  | _ => trivial

theorem Event.precedes_of_none (h : x.ownedBy none) (y : Event) : x.precedes y := by
  cases x with
  | write => obtain ⟨op, ho, -⟩ := h; cases ho
  | _ => trivial

theorem Event.precedes_write (h : x.ownedBy (some op)) (a : BusAddr) (f : Frame) (r : Answer) :
    x.precedes (.write op.caller a f r) := by
  cases x with
  | write => obtain ⟨_, ⟨⟩, hc⟩ := h; exact hc.symm
  | _ => trivial

theorem Event.precedes_respond (h : x.ownedBy (some op)) (r : Response) : x.precedes (.respond op.caller r) := by
  cases x with
  | write => obtain ⟨_, ⟨⟩, hc⟩ := h; exact hc.symm
  | _ => trivial

theorem Event.precedes_abandoned (c : Nat) (a : BusAddr) (f : Frame) : x.precedes (.abandoned c a f) := by
  cases x <;> trivial

theorem Event.precedes_blockReset : x.precedes .blockReset := by cases x <;> trivial

end

/-! ## Every step -/

/-- A step that adds events keeps the trace in order, if the first may follow what the operation in flight wrote. -/
theorem State.traceOk.append {s t : State} (h : s.traceOk) {y : Event} {es : List Event}
    (htrace : t.trace = s.trace ++ y :: es) (hes : (y :: es).IsChain Event.precedes)
    (hfirst : ∀ x : Event, x.ownedBy s.inflight → x.precedes y)
    (hlast : ∀ e ∈ (y :: es).getLast?, e.ownedBy t.inflight) : t.traceOk := by
  rw [traceOk_iff] at h ⊢
  obtain ⟨hchain, hown⟩ := h
  rw [htrace]
  refine ⟨hchain.append hes fun x hx y' hy => ?_, ?_⟩
  · cases hy
    exact hfirst x (hown x hx)
  · rwa [List.getLast?_append_of_ne_nil _ (List.cons_ne_nil y es)]

/-- A step that adds no event keeps the trace in order, if it drops no operation. -/
theorem State.traceOk.of_trace_eq {s t : State} (h : s.traceOk) (htrace : t.trace = s.trace)
    (hi : s.inflight = none ∨ t.inflight = s.inflight) : t.traceOk := by
  rw [traceOk_iff] at h ⊢
  obtain ⟨hchain, hown⟩ := h
  rw [htrace]
  refine ⟨hchain, fun e he => ?_⟩
  obtain hnone | hsame := hi
  · exact Event.ownedBy_of_none (hnone ▸ hown e he) _
  · exact hsame ▸ hown e he

theorem EngineStep.traceOk {s t : State} (h : EngineStep s t) (hs : s.traceOk) : t.traceOk := by
  cases h with
  | stay => exact hs
  | start c req rest fs a k p i hh hd hx => exact hs.of_trace_eq rfl (.inl hh.1)
  | turnAway c req rest k info hh =>
    exact hs.append rfl (.singleton _) (fun x hx => Event.precedes_of_none (hh.1 ▸ hx) _) (by rintro _ ⟨⟩; trivial)
  | emitOk op f as ho hf ha =>
    refine hs.append (emitOk_trace ..) (.singleton _) (fun x hx => Event.precedes_write (ho ▸ hx) _ _ _) ?_
    rintro _ ⟨⟩
    exact ⟨op, (emitOk_inflight ..).trans ho, rfl⟩
  | emitFail op f r k as ho hf ha =>
    exact hs.append (emitFail_trace ..) (List.isChain_pair.2 rfl) (fun x hx => Event.precedes_write (ho ▸ hx) _ _ _)
      (by rintro _ ⟨⟩; trivial)
  | complete op ho hdone =>
    exact hs.append rfl (.singleton _) (fun x hx => Event.precedes_respond (ho ▸ hx) _) (by rintro _ ⟨⟩; trivial)

theorem blockReset_traceOk (cut : Option Nat) {s : State} (hs : s.traceOk) : (blockReset cut s).traceOk := by
  obtain h | ⟨k, op, f, -, -, -, -, h⟩ := blockReset_cases cut s <;> rw [h]
  · exact hs.append rfl (.singleton _) (fun x _ => Event.precedes_blockReset) (by rintro _ ⟨⟩; trivial)
  · exact hs.append (es := [.blockReset]) (by simp) (List.isChain_pair.2 Event.precedes_blockReset)
      (fun x _ => Event.precedes_abandoned op.caller op.addr f) (by rintro _ ⟨⟩; trivial)

/-- Settles O50: a step adds a write or an answer of the operation in flight, or an answer when there is none. -/
theorem operationsNeverInterleave : Obligations.OperationsNeverInterleave := by
  intro s t hs h
  obtain ⟨ts, -, hi⟩ | ⟨c, req, ts, -, -, -, rfl⟩ | ⟨cut, ts, -, rfl⟩ | ⟨ts, -, rfl⟩ := step_next h
  · obtain ⟨-, he⟩ | ⟨-, -, c, n, rfl⟩ := internalStep_next hi
    · exact he.traceOk hs
    · exact hs
  · exact hs
  · exact blockReset_traceOk cut (s := { s with turns := ts }) hs
  · exact hs

end Sys2Proof.Machine
end

section
/-! What a CLEAR leaves on the panel (R51, R88, R93). -/

namespace Sys2Proof.Machine

/-! ## A delivered clear-page frame (R47, R88) -/

/-- The controller as a data frame leaves its input: nothing to take in, and last read as a data stream. -/
def Controller.afterData (c : Controller) : Controller := { c with rx := [], rxPos := .dataStream }

/-- SET_PAGE (R48): the page pointer at `N`. -/
def Controller.atPage (c : Controller) (N : Page) : Controller := { c with pagePtr := N }

theorem data_afterData (c : Controller) (b : Byte) : c.afterData.data b = (c.data b).afterData := by
  unfold Controller.data Controller.advance
  cases hm : c.amode <;> simp only [Controller.afterData, hm]
  case page => rfl
  all_goals split_ifs <;> rfl

theorem dataStream_afterData (c : Controller) (bs : List Byte) :
    c.afterData.dataStream bs = (c.dataStream bs).afterData := by
  induction bs generalizing c with
  | nil => rfl
  | cons b bs ih => rw [dataStream_cons, dataStream_cons, data_afterData, ih]

/-- The four steps of a clear-page frame: a control byte, the page command, a control byte and the zeros. -/
theorem reaches_clearPage {s : State} (ht : s.turns = []) {W : Nat} (hW : 1 ≤ W) (N : Page) (c : Controller) (n : Nat) :
    Reaches (s.withPanel { c with rx := clearPageFrame W N, rxPos := .control } n)
      (s.withPanel (((c.afterData.atPage N).dataStream (zeros W))) n) := by
  obtain ⟨w, rfl⟩ := Nat.exists_eq_add_of_le' hW
  have hfirst : internalStep (s.withPanel { c with rx := clearPageFrame (w + 1) N, rxPos := .control } n) = .next
      (s.withPanel { c with rx := pageCommand N :: 0x40 :: zeros (w + 1), rxPos := .singleCommand } n) :=
    internalStep_controlRow (i := .prefixSingleCommand) ⟨rfl, rfl⟩ rfl
  have hpage : internalStep (s.withPanel { c with rx := pageCommand N :: 0x40 :: zeros (w + 1), rxPos := .singleCommand } n)
      = .next (s.withPanel { c with rx := 0x40 :: zeros (w + 1), rxPos := .control, pagePtr := N } n) :=
    internalStep_singleCommand ⟨rfl, rfl⟩ (decode_setPage N)
  have hsecond : internalStep (s.withPanel { c with rx := 0x40 :: zeros (w + 1), rxPos := .control, pagePtr := N } n)
      = .next (s.withPanel { c with rx := zeros (w + 1), rxPos := .dataStream, pagePtr := N } n) :=
    internalStep_controlRow (i := .prefixDataStream) ⟨rfl, rfl⟩ rfl
  exact .internal ht hfirst <| .internal ht hpage <| .internal ht hsecond <|
    .internal ht (internalStep_dataStream (b := 0) (bs := zeros w) ⟨rfl, rfl⟩) .refl

theorem toPanel_watched {a : BusAddr} {f : Frame} {s : State} (ha : a = s.par.panelAddr) (hf : f ≠ []) :
    toPanel a f s = s.withPanel { s.ctl with rx := f, rxPos := .control } s.draws := by
  rw [toPanel, if_pos ha, deliver_bytes hf]
  rfl

theorem settles_clearPage {s : State} {a : BusAddr} (ht : s.turns = []) (ha : a = s.par.panelAddr) {W : Nat} (hW : 1 ≤ W)
    (N : Page) : (toPanel a (clearPageFrame W N) s).settles
      fun c => c = (s.ctl.afterData.atPage N).dataStream (zeros W) := by
  rw [toPanel_watched ha (show clearPageFrame W N ≠ [] from List.cons_ne_nil _ _)]
  exact ⟨_, s.draws, reaches_clearPage ht hW N s.ctl s.draws, dataStream_rx .., rfl⟩

/-! ## A CLEAR from the queue to its answer -/

@[simp] theorem clearPages_zero (W : Nat) (c : Controller) : clearPages W 0 c = c := rfl

theorem clearPages_succ (W n : Nat) (c : Controller) :
    clearPages W (n + 1) c = ((clearPages W n c).atPage (BitVec.ofNat 3 n)).dataStream (zeros W) := by
  rw [clearPages, List.range_succ, List.foldl_append]
  rfl

/-- The operation that a CLEAR puts in flight (R93). -/
def clearOperation (r : Session) (c : Nat) (req : Request) : Operation :=
  { caller := c, req := req, frames := (List.range r.pages).map fun N => clearPageFrame r.W (BitVec.ofNat 3 N),
    addr := r.addr, commit := .keep }

theorem internalStep_clear {s : State} {c : Nat} {req : Request} {rest : List (Nat × Request)} (hrx : s.engineNext)
    (h : s.head c req rest) (hd : decodeRequest req = .ok .clear) (hs : s.reg.sess = .opened) :
    internalStep s = .next { s with queue := rest, inflight := some (clearOperation s.reg c req), seq := 0 } := by
  obtain ⟨ho, hq⟩ := id h
  calc internalStep s
    _ = exec .clear s := by
      rw [internalStep_engine hrx, engineStep_accept ho, acceptStep, hq]
      dsimp only
      rw [hd]
    _ = _ := accept_start h (by rw [hs]; rfl) rfl

/-- The controller is as the first `i` clear-page frames of a CLEAR leave `c₀`, but for where its parse stands if `i = 0`. -/
def clearedTo (W : Nat) (c₀ : Controller) (i : Nat) (c : Controller) : Prop :=
  c.afterData = (clearPages W i c₀).afterData ∧ (0 < i → c = c.afterData)

theorem clearedTo_succ {W i : Nat} {c₀ c : Controller} (h : clearedTo W c₀ i c) :
    clearedTo W c₀ (i + 1) ((c.afterData.atPage (BitVec.ofNat 3 i)).dataStream (zeros W)) := by
  have hstream : (c.afterData.atPage (BitVec.ofNat 3 i)).dataStream (zeros W) =
      (clearPages W (i + 1) c₀).afterData := by
    rw [h.1, clearPages_succ, ← dataStream_afterData]
    rfl
  rw [hstream]
  exact ⟨rfl, fun _ => rfl⟩

theorem clear_completes {s : State} {c : Nat} {req : Request} {rest : List (Nat × Request)} {as : List Answer}
    (ht : s.turns = []) (hrx : s.engineNext) (h : s.head c req rest) (hd : decodeRequest req = .ok .clear)
    (hs : s.reg.sess = .opened) (hsize : legalSize s.reg.W s.reg.H) (ha : s.reg.addr = s.par.panelAddr)
    (has : s.answers = List.replicate s.reg.pages .ok ++ as) :
    ∃ t, Reaches s t ∧ t.inflight = none ∧ t.queue = rest ∧ t.answers = as ∧ (∃ es, t.trace = es ++ [.respond c .ok]) ∧
      t.ctl = (clearPages s.reg.W s.reg.pages s.ctl).afterData := by
  have hlen : (clearOperation s.reg c req).frames.length = s.reg.pages := by simp [clearOperation]
  obtain ⟨t, hreach, hdone, -, hctl⟩ := operation_completes (op := clearOperation s.reg c req) (p := s.par)
    (s := { s with queue := rest, inflight := some (clearOperation s.reg c req), seq := 0 })
    (I := clearedTo s.reg.W s.ctl) (rest := as)
    (fun i f hf u hu hp _ hc => by
      obtain ⟨-, rfl⟩ : i < s.reg.pages ∧ clearPageFrame s.reg.W (BitVec.ofNat 3 i) = f := by
        simpa [clearOperation, List.getElem?_eq_some_iff] using hf
      obtain ⟨c', n, hreach, hrx', rfl⟩ := settles_clearPage hu (ha.trans (hp ▸ rfl)) hsize.1 (BitVec.ofNat 3 i)
      exact ⟨_, n, hreach, hrx', clearedTo_succ hc⟩)
    ht rfl rfl (Nat.zero_le _) (by rw [hlen]; exact has) hrx ⟨rfl, nofun⟩
  rw [hlen] at hctl
  exact ⟨t, .internal ht (internalStep_clear hrx h hd hs) hreach, hdone.inflight, hdone.queue, hdone.answers,
    hdone.answered, (hctl.2 hsize.pages_pos).trans hctl.1⟩

/-! ## The bytes that clear-page frames write, with the ranges at full extent (R49) -/

/-- The controller writes page after page: horizontal mode, both ranges at full extent. -/
structure Controller.FullRange (c : Controller) : Prop where
  amode : c.amode = .horizontal
  colStart : c.colStart = 0
  colEnd : c.colEnd.toNat = 127
  pageStart : c.pageStart = 0
  pageEnd : c.pageEnd.toNat = 7

theorem Controller.FullRange.data {c : Controller} (h : c.FullRange) (b : Byte) : (c.data b).FullRange := by
  rw [data_eq]
  exact ⟨h.amode, h.colStart, h.colEnd, h.pageStart, h.pageEnd⟩

theorem Controller.FullRange.dataStream {c : Controller} (h : c.FullRange) (bs : List Byte) :
    (c.dataStream bs).FullRange := by
  induction bs generalizing c with
  | nil => exact h
  | cons b bs ih => exact ih (h.data b)

theorem Controller.FullRange.atPage {c : Controller} (h : c.FullRange) (N : Page) : (c.atPage N).FullRange :=
  ⟨h.amode, h.colStart, h.colEnd, h.pageStart, h.pageEnd⟩

theorem Controller.FullRange.clearPages {c : Controller} (h : c.FullRange) (W n : Nat) :
    (clearPages W n c).FullRange := by
  induction n with
  | zero => exact h
  | succ n ih =>
    rw [clearPages_succ]
    exact (ih.atPage _).dataStream _

/-- The address of the byte at the cursor. -/
def Controller.cursor (c : Controller) : Nat := 128 * c.pagePtr.toNat + c.colPtr.toNat

theorem cursor_atPage (c : Controller) (N : Page) : (c.atPage N).cursor = 128 * N.toNat + c.colPtr.toNat := rfl

theorem cursor_lt (c : Controller) : c.cursor < 1024 := ramAddr_lt c.pagePtr c.colPtr

theorem cursor_mod (c : Controller) : c.cursor % 128 = c.colPtr.toNat := by
  have hcol := c.colPtr.isLt
  unfold Controller.cursor
  omega

/-- At full extent the cursor goes through the whole display memory and round again. -/
theorem Controller.FullRange.cursor_data {c : Controller} (h : c.FullRange) (b : Byte) :
    (c.data b).cursor = (c.cursor + 1) % 1024 := by
  have hcol := c.colPtr.isLt
  have hpage := c.pagePtr.isLt
  have hcolEnd := h.colEnd
  have hpageEnd := h.pageEnd
  unfold Controller.cursor
  by_cases hc : c.colPtr.toNat < c.colEnd.toNat
  · obtain ⟨h1, h2⟩ := data_horizontal_inside b h.amode hc
    rw [h1, h2, nextCol_inside hc]
    omega
  · obtain ⟨h1, h2⟩ := data_horizontal_atEnd b h.amode (Nat.le_of_not_lt hc)
    rw [h1, h2, nextCol_atEnd (Nat.le_of_not_lt hc), h.colStart, show (0 : Column).toNat = 0 from rfl]
    by_cases hp : c.pagePtr.toNat < c.pageEnd.toNat
    · rw [nextPage_inside hp]
      omega
    · rw [nextPage_atEnd (Nat.le_of_not_lt hp), h.pageStart, show (0 : Page).toNat = 0 from rfl]
      omega

theorem Controller.FullRange.cursor_dataStream {c : Controller} (h : c.FullRange) (bs : List Byte) :
    (c.dataStream bs).cursor = (c.cursor + bs.length) % 1024 := by
  induction bs generalizing c with
  | nil => exact (Nat.mod_eq_of_lt (cursor_lt c)).symm
  | cons b bs ih =>
    rw [dataStream_cons, ih (h.data b), h.cursor_data, List.length_cons]
    omega

/-- The addresses of a run of `n` bytes from the address `q` on, round the display memory. -/
def runAddrs (q n : Nat) : Finset Nat := (Finset.range n).image fun j => (q + j) % 1024

theorem mem_runAddrs {q n a : Nat} : a ∈ runAddrs q n ↔ ∃ j < n, (q + j) % 1024 = a := by
  simp [runAddrs]

theorem runAddrs_succ (q n : Nat) : runAddrs q (n + 1) = insert ((q + n) % 1024) (runAddrs q n) := by
  rw [runAddrs, Finset.range_add_one, Finset.image_insert, runAddrs]

theorem dataStream_concat (c : Controller) (bs : List Byte) (b : Byte) :
    c.dataStream (bs ++ [b]) = (c.dataStream bs).data b := by
  rw [Controller.dataStream, List.foldl_concat]
  rfl

theorem read_zeros {c : Controller} (h : c.FullRange) (n a : Nat) : Memory.read (c.dataStream (zeros n)).ram a =
    if a ∈ runAddrs c.cursor n then some 0 else Memory.read c.ram a := by
  induction n with
  | zero => rfl
  | succ n ih =>
    have hcursor : (c.dataStream (zeros n)).cursor = (c.cursor + n) % 1024 := by
      rw [h.cursor_dataStream, zeros, List.length_replicate]
    have hlast : zeros (n + 1) = zeros n ++ [0] := List.replicate_succ'
    rw [hlast, dataStream_concat, read_data, ← Controller.cursor, hcursor, ih, runAddrs_succ]
    simp only [Finset.mem_insert, ite_or]

/-! ### The bytes of a CLEAR -/

/-- The column pointer after `n` clear-page frames. -/
theorem colPtr_clearPages {c : Controller} (h : c.FullRange) (W n : Nat) :
    (clearPages W n c).colPtr.toNat = (c.colPtr.toNat + n * W) % 128 := by
  induction n with
  | zero => rw [clearPages_zero, Nat.zero_mul, Nat.add_zero, Nat.mod_eq_of_lt c.colPtr.isLt]
  | succ n ih =>
    rw [clearPages_succ, ← cursor_mod, ((h.clearPages W n).atPage _).cursor_dataStream, cursor_atPage, ih, zeros,
      List.length_replicate, Nat.add_one_mul n W]
    omega

/-- The addresses that `n` clear-page frames of `W` zeros write, from column `x` on. -/
def clearedAddrs (W x n : Nat) : Finset Nat :=
  (Finset.range n).biUnion fun i => runAddrs (128 * i + (x + i * W) % 128) W

theorem clearedAddrs_succ (W x n : Nat) :
    clearedAddrs W x (n + 1) = runAddrs (128 * n + (x + n * W) % 128) W ∪ clearedAddrs W x n := by
  rw [clearedAddrs, Finset.range_add_one, Finset.biUnion_insert, clearedAddrs]

theorem mem_clearedAddrs {W x n a : Nat} :
    a ∈ clearedAddrs W x n ↔ ∃ i < n, ∃ j < W, (128 * i + (x + i * W) % 128 + j) % 1024 = a := by
  simp only [clearedAddrs, Finset.mem_biUnion, Finset.mem_range, mem_runAddrs]

theorem read_clearPages {c : Controller} (h : c.FullRange) (W : Nat) {n : Nat} (hn : n ≤ 8) (a : Nat) :
    Memory.read (clearPages W n c).ram a =
      if a ∈ clearedAddrs W c.colPtr.toNat n then some 0 else Memory.read c.ram a := by
  induction n with
  | zero => rfl
  | succ n ih =>
    have hcursor : ((clearPages W n c).atPage (BitVec.ofNat 3 n)).cursor =
        128 * n + (c.colPtr.toNat + n * W) % 128 := by
      rw [cursor_atPage, toNat_ofNat_page hn, colPtr_clearPages h]
    have hram : ((clearPages W n c).atPage (BitVec.ofNat 3 n)).ram = (clearPages W n c).ram := rfl
    rw [clearPages_succ, read_zeros ((h.clearPages W n).atPage _), hcursor, hram, ih (Nat.le_of_succ_le hn),
      clearedAddrs_succ]
    simp only [Finset.mem_union, ite_or]

/-! ### Which of them are visible (R51) -/

/-- The addresses of the visible bytes: the first `W` columns of `P` pages. -/
def visibleAddrs (W P : Nat) : Finset Nat :=
  (Finset.range P ×ˢ Finset.range W).image fun q => 128 * q.1 + q.2

theorem mem_visibleAddrs {W P a : Nat} : a ∈ visibleAddrs W P ↔ ∃ p < P, ∃ x < W, 128 * p + x = a := by
  simp only [visibleAddrs, Finset.mem_image, Finset.mem_product, Finset.mem_range, Prod.exists]
  constructor
  · rintro ⟨p, x, ⟨hp, hx⟩, h⟩
    exact ⟨p, hp, x, hx, h⟩
  · rintro ⟨p, hp, x, hx, h⟩
    exact ⟨p, x, ⟨hp, hx⟩, h⟩

theorem card_visibleAddrs {W : Nat} (hW : W ≤ 128) (P : Nat) : (visibleAddrs W P).card = P * W := by
  rw [visibleAddrs, Finset.card_image_of_injOn, Finset.card_product, Finset.card_range, Finset.card_range]
  rintro ⟨p, x⟩ hq ⟨p', x'⟩ hq' (h : 128 * p + x = 128 * p' + x')
  simp only [Finset.coe_product, Set.mem_prod, Finset.mem_coe, Finset.mem_range] at hq hq'
  exact Prod.ext (by dsimp only; omega) (by dsimp only; omega)

theorem card_clearedAddrs_le (W x P : Nat) : (clearedAddrs W x P).card ≤ P * W := by
  calc (clearedAddrs W x P).card
    _ ≤ (Finset.range P).card * W := Finset.card_biUnion_le_card_mul _ _ _ fun i _ =>
      Finset.card_image_le.trans (Finset.card_range W).le
    _ = P * W := by rw [Finset.card_range]

/-- A CLEAR writes as many bytes as are visible, so it blanks them only if it writes no other byte. -/
theorem clearedAddrs_eq_visible {W x P : Nat} (hW : W ≤ 128) (h : visibleAddrs W P ⊆ clearedAddrs W x P) :
    clearedAddrs W x P = visibleAddrs W P :=
  (Finset.eq_of_subset_of_card_le h ((card_clearedAddrs_le W x P).trans (card_visibleAddrs hW P).ge)).symm

/-- On a display narrower than the memory, a frame that starts past column 0 writes past the visible columns. -/
theorem start_eq_zero_of_eq_visible {W x P i : Nat} (h : clearedAddrs W x P = visibleAddrs W P) (hW : 1 ≤ W)
    (hW' : W < 128) (hi : i < P) : (x + i * W) % 128 = 0 := by
  have visible : ∀ j < W, ((x + i * W) % 128 + j) % 128 < W := by
    intro j hj
    obtain ⟨p, hp, y, hy, heq⟩ := mem_visibleAddrs.1 (h ▸ mem_clearedAddrs.2 ⟨i, hi, j, hj, rfl⟩)
    omega
  by_contra hne
  have hfirst := visible 0 hW
  have hpast := visible (W - (x + i * W) % 128) (by omega)
  omega

theorem visible_subset_cleared_iff {W x P : Nat} (hW : 1 ≤ W) (hW' : W ≤ 128) (hP : P = 4 ∨ P = 8) (hx : x < 128) :
    visibleAddrs W P ⊆ clearedAddrs W x P ↔ W = 128 ∧ (x = 0 ∨ P = 8) := by
  constructor
  · intro h
    obtain hlt | rfl := Nat.lt_or_eq_of_le hW'
    · have heq := clearedAddrs_eq_visible hW' h
      have h0 := start_eq_zero_of_eq_visible (i := 0) heq hW hlt (by omega)
      have h1 := start_eq_zero_of_eq_visible (i := 1) heq hW hlt (by omega)
      omega
    · obtain ⟨i, hi, j, hj, heq⟩ := mem_clearedAddrs.1 (h (mem_visibleAddrs.2 ⟨0, by omega, 0, by omega, rfl⟩))
      exact ⟨rfl, by omega⟩
  · rintro ⟨rfl, hfull⟩ a ha
    obtain ⟨p, hp, y, hy, rfl⟩ := mem_visibleAddrs.1 ha
    rw [mem_clearedAddrs]
    by_cases hy' : x ≤ y
    · exact ⟨p, hp, y - x, by omega, by omega⟩
    · exact ⟨(p + 7) % 8, by omega, y + 128 - x, by omega, by omega⟩

/-- Settles O59: with unknown bytes before it, a CLEAR blanks the bytes that it writes and no other. -/
theorem clearBlanksExactlyWhen : Obligations.ClearBlanksExactlyWhen := by
  refine ⟨fun s c req rest as ht hrx h hd hs hsize ha has => ?_, fun W P c hW hW' hP hm hcs hce hps hpe => ?_⟩
  · obtain ⟨t, hreach, ht'⟩ := clear_completes ht hrx h hd hs hsize ha has
    obtain ⟨k, hk⟩ := hreach.run
    exact ⟨k, t, hk, ht'⟩
  · have hread (ram : List Host.Cell) (a : Nat) := read_clearPages (c := { c with ram := ram })
      ⟨hm, hcs, hce, hps, hpe⟩ W (show P ≤ 8 by omega) a
    have hcol : c.colPtr.toNat = 0 ↔ c.colPtr = 0 := BitVec.toNat_inj (y := 0)
    rw [← hcol, ← visible_subset_cleared_iff hW hW' hP c.colPtr.isLt]
    constructor
    · intro h a ha
      obtain ⟨p, hp, x, hx, rfl⟩ := mem_visibleAddrs.1 ha
      by_contra hnot
      have hknown := h [] rfl p x hp hx
      rw [hread, if_neg hnot] at hknown
      cases hknown
    · intro h ram _ p x hp hx
      rw [hread, if_pos (h (mem_visibleAddrs.2 ⟨p, hp, x, hx, rfl⟩))]

end Sys2Proof.Machine
end

section
/-! The request messages (R66 to R73): what each layout decodes to, and that decoding and encoding undo each other. -/

namespace Sys2Proof

/-! ## Integer fields (R66, R72) -/

theorem ofLe_le_of_lt {n v : Nat} (h : v < 2 ^ (8 * n)) : ofLe (le n v) = v := by
  induction n generalizing v with
  | zero => rw [Nat.lt_one_iff.1 h]; rfl
  | succ n ih =>
    rw [Nat.mul_succ, pow_add] at h
    rw [le, ofLe, ih (Nat.div_lt_of_lt_mul (Nat.mul_comm _ _ ▸ h)), BitVec.toNat_ofNat]
    exact Nat.mod_add_div v 256

theorem ofLe_lt (bs : List Byte) : ofLe bs < 2 ^ (8 * bs.length) := by
  induction bs with
  | nil => exact Nat.one_pos
  | cons b bs ih =>
    have hb := b.isLt
    rw [ofLe, List.length_cons, Nat.mul_succ, pow_add]
    omega

theorem le_ofLe {n : Nat} {bs : List Byte} (hn : bs.length = n) : le n (ofLe bs) = bs := by
  subst hn
  induction bs with
  | nil => rfl
  | cons b bs ih =>
    have hlow : BitVec.ofNat 8 (ofLe (b :: bs)) = b := by
      apply BitVec.eq_of_toNat_eq
      rw [ofLe, BitVec.toNat_ofNat, Nat.add_mul_mod_self_left, Nat.mod_eq_of_lt b.isLt]
    have hhigh : ofLe (b :: bs) / 256 = ofLe bs := by
      have hb := b.isLt
      rw [ofLe]
      omega
    rw [List.length_cons, le, hlow, hhigh, ih]

theorem fitsUnsigned_natCast {n k : Nat} : fitsUnsigned n k = true ↔ k < 2 ^ n := by
  rw [fitsUnsigned, Bool.and_eq_true, decide_eq_true_eq, decide_eq_true_eq]
  exact ⟨fun h => by exact_mod_cast h.2, fun h => ⟨Int.natCast_nonneg k, by exact_mod_cast h⟩⟩

theorem exists_of_fitsUnsigned {n : Nat} {v : Int} (h : fitsUnsigned n v = true) : ∃ k : Nat, k < 2 ^ n ∧ v = k := by
  have hv : 0 ≤ v := of_decide_eq_true (Bool.and_eq_true_iff.1 h).1
  lift v to Nat using hv
  exact ⟨v, fitsUnsigned_natCast.1 h, rfl⟩

theorem fitsSigned_iff {n : Nat} {v : Int} : fitsSigned n v = true ↔ -(2 ^ n) ≤ v ∧ v < 2 ^ n := by
  rw [fitsSigned, Bool.and_eq_true, decide_eq_true_eq, decide_eq_true_eq]

theorem unsigned32_lt (v : Int) : unsigned32 v < 2 ^ 32 := by
  unfold unsigned32
  omega

theorem signed32_unsigned32 {v : Int} (h : fitsSigned 31 v = true) : signed32 (unsigned32 v) = v := by
  rw [fitsSigned_iff] at h
  unfold signed32 unsigned32
  split_ifs <;> omega

theorem unsigned32_signed32 {n : Nat} (h : n < 2 ^ 32) : unsigned32 (signed32 n) = n := by
  unfold signed32 unsigned32
  split_ifs <;> omega

theorem fitsSigned_signed32 {n : Nat} (h : n < 2 ^ 32) : fitsSigned 31 (signed32 n) = true := by
  rw [fitsSigned_iff]
  unfold signed32
  split_ifs <;> omega

/-! ## The layouts but OPEN's (R68 to R73) -/

theorem decodeBare_eq_ok_iff {i j : Instr} {bs : List Byte} : decodeBare j bs = .ok i ↔ bs = [] ∧ i = j := by
  cases bs with
  | nil => simp [decodeBare, eq_comm]
  | cons b bs => simp [decodeBare]

theorem decodeString_eq_ok_iff {k : List Byte → Instr} {i : Instr} {bs : List Byte} :
    decodeString k bs = .ok i ↔ ∃ str, str.length < 2 ^ 32 ∧ bs = le 4 str.length ++ str ∧ i = k str := by
  constructor
  · intro h
    unfold decodeString at h
    split at h
    case h_1 l0 l1 l2 l3 str =>
      split_ifs at h with hlen
      cases h
      refine ⟨str, hlen ▸ ofLe_lt [l0, l1, l2, l3], ?_, rfl⟩
      rw [hlen, le_ofLe (n := 4) (bs := [l0, l1, l2, l3]) rfl]
      rfl
    case h_2 => cases h
  · rintro ⟨str, hlen, rfl, rfl⟩
    exact if_pos (ofLe_le_of_lt (n := 4) hlen).symm

/-- The fields of a bitmap before its bytes. -/
theorem decodeBitmap_le (w h : Nat) (rest : List Byte) :
    decodeBitmap (le 2 w ++ (le 2 h ++ rest)) =
      decodeString (fun bytes => .setBitmap bytes (ofLe (le 2 w)) (ofLe (le 2 h))) rest := rfl

theorem decodeBitmap_eq_ok_iff {i : Instr} {bs : List Byte} :
    decodeBitmap bs = .ok i ↔ ∃ (bytes : List Byte) (w h : Nat), w < 2 ^ 16 ∧ h < 2 ^ 16 ∧ bytes.length < 2 ^ 32 ∧
      bs = le 2 w ++ (le 2 h ++ (le 4 bytes.length ++ bytes)) ∧ i = .setBitmap bytes w h := by
  constructor
  · intro heq
    unfold decodeBitmap at heq
    split at heq
    case h_1 w0 w1 h0 h1 rest =>
      obtain ⟨bytes, hlen, rfl, rfl⟩ := decodeString_eq_ok_iff.1 heq
      refine ⟨bytes, ofLe [w0, w1], ofLe [h0, h1], ofLe_lt [w0, w1], ofLe_lt [h0, h1], hlen, ?_, rfl⟩
      rw [le_ofLe (n := 2) (bs := [w0, w1]) rfl, le_ofLe (n := 2) (bs := [h0, h1]) rfl]
      rfl
    case h_2 => cases heq
  · rintro ⟨bytes, w, h, hw, hh, hlen, rfl, rfl⟩
    rw [decodeBitmap_le, ofLe_le_of_lt hw, ofLe_le_of_lt hh]
    exact decodeString_eq_ok_iff.2 ⟨bytes, hlen, rfl, rfl⟩

/-- Every operand of SET_BITMAP fits its field (R70). -/
theorem wf_setBitmap {bytes : List Byte} {w h : Int} : (Instr.setBitmap bytes w h).wf = true ↔
    ∃ m n : Nat, m < 2 ^ 16 ∧ n < 2 ^ 16 ∧ bytes.length < 2 ^ 32 ∧ w = m ∧ h = n := by
  simp only [Instr.wf, Bool.and_eq_true, decide_eq_true_eq]
  constructor
  · rintro ⟨⟨hw, hh⟩, hlen⟩
    obtain ⟨m, hm, rfl⟩ := exists_of_fitsUnsigned hw
    obtain ⟨n, hn, rfl⟩ := exists_of_fitsUnsigned hh
    exact ⟨m, n, hm, hn, hlen, rfl, rfl⟩
  · rintro ⟨m, n, hm, hn, hlen, rfl, rfl⟩
    exact ⟨⟨fitsUnsigned_natCast.2 hm, fitsUnsigned_natCast.2 hn⟩, hlen⟩

theorem decodeContrast_eq_ok_iff {i : Instr} {bs : List Byte} :
    decodeContrast bs = .ok i ↔ ∃ v, fitsSigned 31 v = true ∧ bs = le 4 (unsigned32 v) ∧ i = .setContrast v := by
  constructor
  · intro h
    unfold decodeContrast at h
    split at h
    case h_1 v0 v1 v2 v3 =>
      cases h
      have hlt := ofLe_lt [v0, v1, v2, v3]
      exact ⟨_, fitsSigned_signed32 hlt, by rw [unsigned32_signed32 hlt]; exact (le_ofLe rfl).symm, rfl⟩
    case h_2 => cases h
  · rintro ⟨v, hv, rfl, rfl⟩
    calc decodeContrast (le 4 (unsigned32 v))
      _ = .ok (.setContrast (signed32 (ofLe (le 4 (unsigned32 v))))) := rfl
      _ = _ := by rw [ofLe_le_of_lt (unsigned32_lt v), signed32_unsigned32 hv]

theorem decodeInversion_eq_ok_iff {i : Instr} {bs : List Byte} :
    decodeInversion bs = .ok i ↔ ∃ b : Bool, bs = [if b then 0x01 else 0x00] ∧ i = .setInversion b := by
  constructor
  · intro h
    unfold decodeInversion at h
    split at h
    case h_1 b =>
      split_ifs at h with h0 h1 <;> cases h
      · exact ⟨false, by rw [h0]; rfl, rfl⟩
      · exact ⟨true, by rw [h1]; rfl, rfl⟩
    case h_2 => cases h
  · rintro ⟨b, rfl, rfl⟩
    cases b <;> rfl

/-! ## OPEN (R67) -/

theorem eq_openFlags_of_reserved_clear {fl : Byte} (h : fl &&& 0xF0 = 0) : ∃ m bus f a, fl = openFlags m bus f a := by
  have key : ∀ fl : Byte, fl &&& 0xF0 = 0 → fl =
      openFlags (if fl.getLsbD 0 then .accelerated else .software) (fl.getLsbD 1) (fl.getLsbD 2) (fl.getLsbD 3) := by
    decide
  exact ⟨_, _, _, _, key fl h⟩

/-- The address that OPEN's address byte `a` and the bit for an absent address give. -/
def openAddress (absent : Bool) (a : Byte) : Option Int := if absent then none else some a.toNat

/-- The bytes of OPEN after its flag byte. -/
def fontBytes : Option (List Byte) → List Byte
  | none => []
  | some f => le 2 f.length ++ f

/-- The font in OPEN's bytes after its flag byte, where their length is the one that the layout gives. -/
def openFont : Bool → List Byte → Option (Option (List Byte))
  | false, [] => some none
  | true, l0 :: l1 :: f => if f.length = ofLe [l0, l1] then some (some f) else none
  | _, _ => none

/-- The bits of OPEN's flag byte, as decoding reads them (R67). -/
theorem openFlags_bits (m : Mode) (bus f absent : Bool) :
    openFlags m bus f absent &&& 0xF0 = 0 ∧
    (if (openFlags m bus f absent).getLsbD 0 then Mode.accelerated else .software) = m ∧
    (openFlags m bus f absent).getLsbD 1 = bus ∧ (openFlags m bus f absent).getLsbD 2 = f ∧
    (openFlags m bus f absent).getLsbD 3 = absent := by
  cases m <;> cases bus <;> cases f <;> cases absent <;> decide

theorem decodeOpen_openFlags (m : Mode) (bus f absent : Bool) (a wd hd : Byte) (rest : List Byte) :
    decodeOpen (a :: wd :: hd :: openFlags m bus f absent :: rest) =
      if absent ∧ a ≠ 0 then .reject .addressNotZero
      else (openFont f rest).elim (.reject .wrongLength) fun font =>
        .ok (.openSession (openAddress absent a) wd.toNat hd.toNat m bus font) := by
  obtain ⟨hres, hm, hbus, hf, habsent⟩ := openFlags_bits m bus f absent
  simp only [decodeOpen, hres, hm, hbus, hf, habsent, ne_eq, not_true_eq_false, if_false, openAddress]
  congr 1
  cases f with
  | false => cases rest <;> rfl
  | true =>
    match rest with
    | [] | [_] => rfl
    | l0 :: l1 :: font =>
      rw [openFont, apply_ite (Option.elim · _ _)]
      rfl

theorem encode_openSession (addr : Option Int) (width height : Int) (m : Mode) (bus : Bool) (font : Option (List Byte)) :
    encode (.openSession addr width height m bus font) =
      0x01 :: BitVec.ofInt 8 (addr.getD 0) :: BitVec.ofInt 8 width :: BitVec.ofInt 8 height ::
        openFlags m bus font.isSome addr.isNone :: fontBytes font := by
  cases font <;> rfl

/-- Every operand of OPEN fits its field (R67). -/
theorem wf_openSession {addr : Option Int} {width height : Int} {m : Mode} {bus : Bool} {font : Option (List Byte)} :
    (Instr.openSession addr width height m bus font).wf = true ↔
      (∀ a ∈ addr, fitsUnsigned 8 a = true) ∧ fitsUnsigned 8 width = true ∧ fitsUnsigned 8 height = true ∧
        ∀ f ∈ font, f.length < 2 ^ 16 := by
  simp only [Instr.wf, Bool.and_eq_true, Option.all_eq_true, decide_eq_true_eq, and_assoc, Option.mem_def]

theorem openFont_eq_some_iff {f : Bool} {rest : List Byte} {font : Option (List Byte)} :
    openFont f rest = some font ↔ (∀ g ∈ font, g.length < 2 ^ 16) ∧ font.isSome = f ∧ fontBytes font = rest := by
  constructor
  · intro h
    unfold openFont at h
    split at h
    case h_1 => cases h; exact ⟨nofun, rfl, rfl⟩
    case h_2 l0 l1 g =>
      split_ifs at h with hlen
      cases h
      refine ⟨?_, rfl, ?_⟩
      · rintro _ ⟨⟩
        exact hlen ▸ ofLe_lt [l0, l1]
      · rw [fontBytes, hlen, le_ofLe (n := 2) (bs := [l0, l1]) rfl]
        rfl
    case h_3 => cases h
  · rintro ⟨hfits, rfl, rfl⟩
    cases font with
    | none => rfl
    | some g => exact if_pos (ofLe_le_of_lt (n := 2) (hfits g rfl)).symm

theorem ofInt_toNat_byte (b : Byte) : BitVec.ofInt 8 b.toNat = b := by
  rw [BitVec.ofInt_natCast, BitVec.ofNat_toNat, BitVec.setWidth_eq]

theorem toNat_ofInt_byte {v : Int} (h : fitsUnsigned 8 v = true) : ((BitVec.ofInt 8 v).toNat : Int) = v := by
  obtain ⟨k, hk, rfl⟩ := exists_of_fitsUnsigned h
  rw [BitVec.ofInt_natCast, BitVec.toNat_ofNat, Nat.mod_eq_of_lt hk]

theorem fitsUnsigned_byte (b : Byte) : fitsUnsigned 8 b.toNat = true := fitsUnsigned_natCast.2 b.isLt

/-- The address byte and its bit hold the address: an absent one has the byte 0 (R67). -/
theorem openAddress_eq_iff {absent : Bool} {a : Byte} {addr : Option Int} :
    ¬(absent = true ∧ a ≠ 0) ∧ openAddress absent a = addr ↔
      (∀ v ∈ addr, fitsUnsigned 8 v = true) ∧ addr.isNone = absent ∧ BitVec.ofInt 8 (addr.getD 0) = a := by
  constructor
  · rintro ⟨ha, rfl⟩
    cases absent with
    | true => exact ⟨nofun, rfl, (by_contra fun h => ha ⟨rfl, Ne.symm h⟩)⟩
    | false =>
      refine ⟨?_, rfl, ofInt_toNat_byte a⟩
      rintro _ ⟨⟩
      exact fitsUnsigned_byte a
  · rintro ⟨hfits, rfl, rfl⟩
    cases addr with
    | none => exact ⟨fun h => h.2 rfl, rfl⟩
    | some v => exact ⟨nofun, congrArg some (toNat_ofInt_byte (hfits v rfl))⟩

theorem decodeOpen_ok_form {bs : List Byte} {i : Instr} (h : decodeOpen bs = .ok i) :
    ∃ a wd hd m bus f absent rest, bs = a :: wd :: hd :: openFlags m bus f absent :: rest := by
  unfold decodeOpen at h
  split at h
  case h_1 a wd hd fl rest =>
    by_cases hres : fl &&& 0xF0 = 0
    · obtain ⟨m, bus, f, absent, rfl⟩ := eq_openFlags_of_reserved_clear hres
      exact ⟨a, wd, hd, m, bus, f, absent, rest, rfl⟩
    · rw [if_pos hres] at h
      cases h
  case h_2 => cases h

theorem decodeOpen_eq_ok_iff {i : Instr} {bs : List Byte} :
    decodeOpen bs = .ok i ↔
      ∃ addr width height m bus font, i = .openSession addr width height m bus font ∧ i.wf = true ∧
        encode i = 0x01 :: bs := by
  constructor
  · intro h
    obtain ⟨a, wd, hd, m, bus, f, absent, rest, rfl⟩ := decodeOpen_ok_form h
    rw [decodeOpen_openFlags] at h
    split_ifs at h with ha
    cases hfont : openFont f rest with
    | none => rw [hfont] at h; cases h
    | some font =>
      rw [hfont] at h
      cases h
      obtain ⟨hfits, hsome, hrest⟩ := openFont_eq_some_iff.1 hfont
      obtain ⟨haddr, hnone, hbyte⟩ := openAddress_eq_iff.1 ⟨ha, rfl⟩
      refine ⟨_, _, _, _, _, _, rfl, wf_openSession.2 ⟨haddr, fitsUnsigned_byte wd, fitsUnsigned_byte hd, hfits⟩, ?_⟩
      rw [encode_openSession, hsome, hrest, hnone, hbyte, ofInt_toNat_byte, ofInt_toNat_byte]
  · rintro ⟨addr, width, height, m, bus, font, rfl, hwf, he⟩
    obtain ⟨haddr, hwidth, hheight, hfits⟩ := wf_openSession.1 hwf
    obtain ⟨ha, heq⟩ := openAddress_eq_iff.2 ⟨haddr, rfl, rfl⟩
    rw [encode_openSession] at he
    obtain ⟨-, rfl⟩ := List.cons_eq_cons.1 he
    rw [decodeOpen_openFlags, if_neg ha, openFont_eq_some_iff.2 ⟨hfits, rfl, rfl⟩, heq, toNat_ofInt_byte hwidth,
      toNat_ofInt_byte hheight]
    rfl

/-! ## Messages (R65, R74) -/

theorem decodeMessage_reserved {op : Byte} (h : 9 ≤ op.toNat) (tail : List Byte) :
    decodeMessage (op :: tail) = .ok (.reserved09FF op) := by
  have hne {k : Byte} (hk : k.toNat < 9) : op ≠ k := fun he => absurd hk (he ▸ h.not_gt)
  rw [decodeMessage]
  iterate 9 rw [if_neg (hne (by decide))]

theorem nine_le_toNat {op : Byte} (h0 : op ≠ 0x00) (h1 : op ≠ 0x01) (h2 : op ≠ 0x02) (h3 : op ≠ 0x03)
    (h4 : op ≠ 0x04) (h5 : op ≠ 0x05) (h6 : op ≠ 0x06) (h7 : op ≠ 0x07) (h8 : op ≠ 0x08) : 9 ≤ op.toNat := by
  bv_omega

end Sys2Proof
end

section
/-! The statements about the messages, the command bytes and the frames (R53, R58 to R75, R87 to R92). -/

namespace Sys2Proof.Machine

/-! ## Messages (R65 to R74) -/

/-- Settles O1: each layout gives back the operands that fit its fields, and a reserved opcode is its own message. -/
theorem requestMessagesRoundTrip : Obligations.RequestMessagesRoundTrip := by
  intro i hwf hport
  cases i with
  | openSession addr width height m bus font =>
    obtain ⟨bs, he⟩ : ∃ bs, encode (.openSession addr width height m bus font) = 0x01 :: bs :=
      ⟨_, encode_openSession ..⟩
    rw [he]
    exact decodeOpen_eq_ok_iff.2 ⟨_, _, _, _, _, _, rfl, hwf, he⟩
  | closeSession | clear | reserved00 => rfl
  | setText text => exact decodeString_eq_ok_iff.2 ⟨text, of_decide_eq_true hwf, rfl, rfl⟩
  | setBitmap bytes w h =>
    obtain ⟨m, n, hm, hn, hlen, rfl, rfl⟩ := wf_setBitmap.1 hwf
    exact decodeBitmap_eq_ok_iff.2 ⟨bytes, m, n, hm, hn, hlen, rfl, rfl⟩
  | setQrcode bytes => exact decodeString_eq_ok_iff.2 ⟨bytes, of_decide_eq_true hwf, rfl, rfl⟩
  | setContrast v => exact decodeContrast_eq_ok_iff.2 ⟨v, hwf, rfl, rfl⟩
  | setInversion b => exact decodeInversion_eq_ok_iff.2 ⟨b, rfl, rfl⟩
  | reserved09FF op => exact decodeMessage_reserved (of_decide_eq_true hwf) []
  | _ => cases hport

/-- Settles O2: by the opcode, each layout is the encoding of what it decodes to, and a reserved opcode is the head of its
message. -/
theorem decodedMessagesReencode : Obligations.DecodedMessagesReencode := by
  intro msg i h
  suffices hs : i.wf = true ∧ (encode i = msg ∨ (assigned i = false ∧ ∃ tail, msg = encode i ++ tail)) from
    ⟨hs.1, decodeMessage_port h, hs.2⟩
  cases msg with
  | nil => cases h
  | cons op rest =>
    rw [decodeMessage] at h
    split_ifs at h with h0 h1 h2 h3 h4 h5 h6 h7 h8
    · cases h
      exact ⟨rfl, .inr ⟨rfl, rest, by rw [h0]; rfl⟩⟩
    · obtain ⟨_, _, _, _, _, _, -, hwf, he⟩ := decodeOpen_eq_ok_iff.1 h
      exact ⟨hwf, .inl (by rw [he, h1])⟩
    · obtain ⟨rfl, rfl⟩ := decodeBare_eq_ok_iff.1 h
      exact ⟨rfl, .inl (by rw [h2]; rfl)⟩
    · obtain ⟨rfl, rfl⟩ := decodeBare_eq_ok_iff.1 h
      exact ⟨rfl, .inl (by rw [h3]; rfl)⟩
    · obtain ⟨text, hlen, rfl, rfl⟩ := decodeString_eq_ok_iff.1 h
      exact ⟨decide_eq_true hlen, .inl (by rw [h4]; rfl)⟩
    · obtain ⟨bytes, m, n, hm, hn, hlen, rfl, rfl⟩ := decodeBitmap_eq_ok_iff.1 h
      exact ⟨wf_setBitmap.2 ⟨m, n, hm, hn, hlen, rfl, rfl⟩, .inl (by rw [h5]; rfl)⟩
    · obtain ⟨bytes, hlen, rfl, rfl⟩ := decodeString_eq_ok_iff.1 h
      exact ⟨decide_eq_true hlen, .inl (by rw [h6]; rfl)⟩
    · obtain ⟨v, hv, rfl, rfl⟩ := decodeContrast_eq_ok_iff.1 h
      exact ⟨hv, .inl (by rw [h7]; rfl)⟩
    · obtain ⟨b, rfl, rfl⟩ := decodeInversion_eq_ok_iff.1 h
      exact ⟨rfl, .inl (by rw [h8]; rfl)⟩
    · cases h
      exact ⟨decide_eq_true (nine_le_toNat h0 h1 h2 h3 h4 h5 h6 h7 h8), .inr ⟨rfl, rest, rfl⟩⟩

/-! ## Frame bytes and written-out words (R53, R59) -/

/-- Settles O3: the commands by their lemma, the three control bytes one by one. -/
theorem frameBytesRoundTrip : Obligations.FrameBytesRoundTrip := by
  refine ⟨fun i rest hi => ?_, fun i hi => ?_⟩
  · obtain ⟨b, ps, he, hd⟩ := decodeCommand_encode hi
    exact ⟨b, ps, he, hd rest⟩
  · cases i with
    | prefixSingleCommand | prefixCommandStream | prefixDataStream => exact ⟨_, rfl, rfl⟩
    | _ => cases hi

/-- Settles O4: each word is closed, and the decoders evaluate on it. -/
theorem specWordsDecode : Obligations.SpecWordsDecode := by
  unfold Obligations.SpecWordsDecode
  decide

/-! ## Frames (R60, R61, R87 to R92) -/

theorem chargePump_of_admissible {t : InitTuning} (h : t.admissible = true) : t.chargePump = 0x14 := by
  simp only [InitTuning.admissible, Bool.and_eq_true, beq_iff_eq] at h
  obtain ⟨⟨hpump, -⟩, -⟩ := h
  exact hpump

/-- Settles O5: an admissible tuning leaves the commands of the frame no choice but the ones of the statement. -/
theorem initFrameIsTheInitSequence : Obligations.InitFrameIsTheInitSequence := by
  intro t H ht hH
  refine ⟨rfl, by obtain rfl | rfl := hH <;> rfl, ?_⟩
  rw [initFrame_eq_commands ht, initCommands, chargePump_of_admissible ht]
  rfl

/-- The page is in the low bits, which `0xB0` leaves free (R60). -/
theorem toNat_pageCommand : ∀ N : Page, (pageCommand N).toNat = 0xB0 + N.toNat := by decide

theorem length_clearPageFrame (W : Nat) (N : Page) : (clearPageFrame W N).length = W + 3 := by
  rw [clearPageFrame, List.length_append, zeros, List.length_replicate, Nat.add_comm]
  rfl

/-- Settles O6: the frames are written out in the encoder, and a contrast that fits a byte is the byte's value. -/
theorem encoderFrameBytes : Obligations.EncoderFrameBytes := by
  refine ⟨fun W N => ⟨rfl, length_clearPageFrame W N⟩, fun N => ⟨rfl, toNat_pageCommand N⟩, fun v h0 h255 => ?_,
    rfl, rfl⟩
  lift v to Nat using h0
  have hfits : fitsUnsigned 8 (v : Int) = true := fitsUnsigned_natCast.2 (by omega)
  exact ⟨BitVec.ofInt 8 v, toNat_ofInt_byte hfits, rfl⟩

/-! ## Every frame on the bus is listed (R58, R75) -/

theorem Operation.ok.frame_listed {t : InitTuning} {r : Session} {op : Operation} (h : op.ok t r) (hr : r.ok) {f : Frame}
    (hf : f ∈ op.frames) :
    (∃ H, (H = 32 ∨ H = 64) ∧ f = initFrame t H) ∨ (legalSize r.W r.H ∧ listedFrame t r.W r.pages f) := by
  cases hc : op.commit with
  | opened a W H m font =>
    rw [Operation.ok, hc] at h
    obtain ⟨-, ⟨-, -, hH⟩, -, -, hfs⟩ := h
    rw [hfs, List.mem_singleton] at hf
    exact .inl ⟨H, hH, hf⟩
  | closed =>
    rw [Operation.ok, hc] at h
    obtain ⟨-, hfs, -⟩ := h
    rw [hfs] at hf
    exact absurd hf List.not_mem_nil
  | keep =>
    rw [Operation.ok, hc] at h
    obtain ⟨hs, -, hfs⟩ := h
    obtain ⟨hsize, -⟩ := hr.opened hs
    exact .inr ⟨hsize, hfs f hf⟩

/-- Settles O42: a frame on the bus, or on its way, is one of the operation in flight, and the invariant lists those. -/
theorem everyFrameIsListed : Obligations.EveryFrameIsListed := by
  refine ⟨fun s t hinv h e he c a f r hcall => ?_, fun s hinv op f hout => ?_⟩
  · obtain ⟨op, ho, hf, -⟩ := step_records_call h he hcall
    exact (hinv.operation_ok ho).frame_listed hinv.reg_ok (List.mem_of_getElem? hf)
  · obtain ⟨ho, hf⟩ := outstanding_eq_some hout
    exact (hinv.operation_ok ho).frame_listed hinv.reg_ok (List.mem_of_getElem? hf)

/-! ## Requests that name no operation, and the control prefixes (R53, R74, R103) -/

/-- Settles O18: the meaning of a reserved opcode is the accept step that turns the request away. -/
theorem reservedOpcodesAnswered : Obligations.ReservedOpcodesAnswered :=
  fun _ _ _ _ h => ⟨acceptUnsupported_head h, fun _ => acceptUnsupported_head h⟩

/-- Settles O21: the position is read from bits 7 and 6 of the control byte. -/
theorem prefixesSetThePosition : Obligations.PrefixesSetThePosition := fun _ => ⟨rfl, rfl, rfl⟩

section
variable {s : State} {c : Nat} {req : Request} {rest : List (Nat × Request)}

theorem internalStep_head (hrx : s.engineNext) (h : s.head c req rest) : internalStep s = acceptStep s := by
  rw [internalStep_engine hrx, engineStep_accept h.1]

theorem internalStep_accept (hrx : s.engineNext) (h : s.head c req rest) {i : Instr} (hd : decodeRequest req = .ok i) :
    internalStep s = exec i s := by
  rw [internalStep_head hrx h, acceptStep, h.2]
  dsimp only
  rw [hd]

theorem internalStep_malformed (hrx : s.engineNext) (h : s.head c req rest) {r : Reject}
    (hd : decodeRequest req = .reject r) :
    internalStep s = .next (turnedAway s c rest .unsupported (.malformed r)) := by
  rw [← acceptUnsupported_head h, internalStep_head hrx h, acceptStep, h.2]
  dsimp only
  rw [hd]

end

/-- Settles O28: a message that does not decode is turned away by the accept step, one with a reserved opcode by the meaning
it decodes to. -/
theorem malformedMessagesAnswered : Obligations.MalformedMessagesAnswered := by
  intro s c msg rest hrx h
  refine ⟨fun r hr => ⟨_, internalStep_malformed hrx h hr⟩, ?_⟩
  obtain ⟨h00, h09FF⟩ := reservedOpcodesAnswered s c _ rest h
  rintro op tail rfl (rfl | hop)
  · exact ⟨_, (internalStep_accept hrx h (i := .reserved00) rfl).trans h00⟩
  · exact ⟨_, (internalStep_accept hrx h (decodeMessage_reserved hop tail)).trans (h09FF op)⟩

end Sys2Proof.Machine
end

section
/-! The glyph table, and what a glyph does to the picture (R49, R79 to R84). -/

namespace Sys2Proof.Machine

/-! ## The entries of a glyph table (R79 to R83) -/

theorem getElem?_memRead (bytes : List Byte) (a : Nat) {n j : Nat} (h : j < n) : (memRead bytes a n)[j]? = bytes[a + j]? := by
  rw [memRead, List.getElem?_take_of_lt h, List.getElem?_drop]

theorem memRead_zeros_append {a k n : Nat} (h : a + k ≤ n) (bytes : List Byte) : memRead (zeros n ++ bytes) a k = zeros k := by
  unfold memRead zeros
  rw [List.drop_append_of_le_length (by rw [List.length_replicate]; omega), List.drop_replicate,
    List.take_append_of_le_length (by rw [List.length_replicate]; omega), List.take_replicate, Nat.min_eq_left (by omega)]

theorem glyph_inside (font : List Byte) {code : Int} (h0 : 0 ≤ code) (h127 : code ≤ 127) :
    glyph font code = some (memRead font (8 * code.toNat) 8) := if_neg (by omega)

theorem glyph_outside (font : List Byte) {code : Int} (h : code < 0 ∨ 127 < code) : glyph font code = none := if_pos h

theorem rasterGlyph_low (policy : HighCodePolicy) (font : List Byte) {b : Byte} (h : b.toNat ≤ 127) :
    rasterGlyph policy font b = glyph font b.toNat := if_pos h

theorem rasterGlyph_blank (font : List Byte) {b : Byte} (h : 128 ≤ b.toNat) :
    rasterGlyph .blank font b = some (zeros 8) := if_neg (by omega)

theorem rasterGlyph_reject (font : List Byte) {b : Byte} (h : 128 ≤ b.toNat) : rasterGlyph .reject font b = none :=
  if_neg (by omega)

/-- Settles O7: the entry of a code below 128 ends inside the 1024 bytes of the table. -/
theorem glyphReadsItsEntry : Obligations.GlyphReadsItsEntry := by
  refine fun font hfont => ⟨fun code h0 h127 => ⟨_, glyph_inside font h0 h127, memRead_length ?_, ?_⟩,
    fun _ => glyph_outside font, fun policy _ => rasterGlyph_low policy font,
    fun _ hb => ⟨rasterGlyph_blank font hb, rasterGlyph_reject font hb⟩⟩
  · omega
  · exact fun j => getElem?_memRead font (8 * code.toNat)

/-- Settles O8: entries 0..32 lie in the 264 zeros that the default font begins with. -/
theorem defaultFontBlankEntries : Obligations.DefaultFontBlankEntries := by
  refine ⟨defaultFont_length, fun code h0 h32 => ?_⟩
  rw [glyph_inside _ h0 (by omega), Config.defaultFont, memRead_zeros_append (by omega)]

/-! ## A run of data bytes along one page (R49) -/

theorem dataStream_append (c : Controller) (bs ds : List Byte) :
    c.dataStream (bs ++ ds) = (c.dataStream bs).dataStream ds := List.foldl_append

/-- A data stream changes the display memory and the cursor only. -/
theorem dataStream_eq (c : Controller) (bs : List Byte) :
    c.dataStream bs = { c with ram := (c.dataStream bs).ram, colPtr := (c.dataStream bs).colPtr,
                               pagePtr := (c.dataStream bs).pagePtr } := by
  induction bs generalizing c with
  | nil => rfl
  | cons b bs ih =>
    rw [dataStream_cons, ih (c.data b), data_eq]

@[simp] theorem dataStream_amode (c : Controller) (bs : List Byte) : (c.dataStream bs).amode = c.amode := by
  rw [dataStream_eq]

@[simp] theorem dataStream_colStart (c : Controller) (bs : List Byte) : (c.dataStream bs).colStart = c.colStart := by
  rw [dataStream_eq]

@[simp] theorem dataStream_colEnd (c : Controller) (bs : List Byte) : (c.dataStream bs).colEnd = c.colEnd := by
  rw [dataStream_eq]

/-- The bytes of a glyph column are the pixels of one page, bit 0 uppermost (R29). -/
theorem pixel_eq (c : Controller) (x p : Nat) {i : Nat} (hi : i < 8) :
    c.pixel x (8 * p + i) = (Memory.read c.ram (128 * p + x)).map fun b => b.getLsbD i := by
  rw [Controller.pixel, show (8 * p + i) / 8 = p by omega, show (8 * p + i) % 8 = i by omega]

section Run
variable {c : Controller}

/-- Outside vertical mode the cursor moves one column right, up to the column end. -/
theorem data_inside (b : Byte) (hm : c.amode ≠ .vertical) (h : c.colPtr.toNat < c.colEnd.toNat) :
    (c.data b).colPtr.toNat = c.colPtr.toNat + 1 ∧ (c.data b).pagePtr = c.pagePtr := by
  obtain ⟨hcol, hpage⟩ : (c.data b).colPtr = c.nextCol ∧ (c.data b).pagePtr = c.pagePtr := by
    cases hmode : c.amode with
    | horizontal => exact data_horizontal_inside b hmode h
    | vertical => exact absurd hmode hm
    | page => exact data_page b hmode
  exact ⟨hcol ▸ nextCol_inside h, hpage⟩

/-- Outside vertical mode the cursor goes back to the column start at the column end, and only horizontal mode turns the
page. -/
theorem data_atEnd (b : Byte) (hm : c.amode ≠ .vertical) (h : c.colEnd.toNat ≤ c.colPtr.toNat) :
    (c.data b).colPtr = c.colStart ∧ (c.data b).pagePtr = if c.amode = .horizontal then c.nextPage else c.pagePtr := by
  cases hmode : c.amode with
  | horizontal =>
    obtain ⟨hcol, hpage⟩ := data_horizontal_atEnd b hmode h
    exact ⟨hcol.trans (nextCol_atEnd h), hpage⟩
  | vertical => exact absurd hmode hm
  | page =>
    obtain ⟨hcol, hpage⟩ := data_page b hmode
    exact ⟨hcol.trans (nextCol_atEnd h), hpage⟩

variable {bs : List Byte}

theorem dataStream_nextPage (h : (c.dataStream bs).pagePtr = c.pagePtr) : (c.dataStream bs).nextPage = c.nextPage := by
  rw [dataStream_eq, h]
  rfl

/-- A run that ends before the column end leaves the cursor past it, on its page. -/
theorem dataStream_inside (hm : c.amode ≠ .vertical) (h : c.colPtr.toNat + bs.length ≤ max c.colPtr.toNat c.colEnd.toNat) :
    (c.dataStream bs).colPtr.toNat = c.colPtr.toNat + bs.length ∧ (c.dataStream bs).pagePtr = c.pagePtr := by
  induction bs using List.reverseRecOn with
  | nil => exact ⟨rfl, rfl⟩
  | append_singleton bs b ih =>
    rw [List.length_append, List.length_singleton] at h ⊢
    obtain ⟨hcol, hpage⟩ := ih (by omega)
    obtain ⟨hcol', hpage'⟩ := data_inside (c := c.dataStream bs) b (by rwa [dataStream_amode])
      (by rw [dataStream_colEnd]; omega)
    rw [dataStream_concat, hcol', hpage', hcol, hpage]
    exact ⟨Nat.add_assoc .., rfl⟩

/-- A run that ends at the column end, or past it in one byte, leaves the cursor at the column start. -/
theorem dataStream_atEnd (hm : c.amode ≠ .vertical) (hbs : bs ≠ [])
    (h : c.colPtr.toNat + bs.length = max c.colPtr.toNat c.colEnd.toNat + 1) :
    (c.dataStream bs).colPtr = c.colStart ∧
      (c.dataStream bs).pagePtr = if c.amode = .horizontal then c.nextPage else c.pagePtr := by
  obtain ⟨ds, b, rfl⟩ := (List.eq_nil_or_concat' bs).resolve_left hbs
  rw [List.length_append, List.length_singleton] at h
  obtain ⟨hcol, hpage⟩ := dataStream_inside hm (bs := ds) (by omega)
  obtain ⟨hcol', hpage'⟩ := data_atEnd (c := c.dataStream ds) b (by rwa [dataStream_amode])
    (by rw [dataStream_colEnd]; omega)
  rw [dataStream_concat, hcol', hpage', dataStream_colStart, dataStream_amode, dataStream_nextPage hpage, hpage]
  exact ⟨rfl, rfl⟩

/-- A run that does not pass the column end puts byte `j` at the `j`-th address from the cursor on. The first byte goes to the
cursor wherever that is, so a run of one byte may begin past the column end. -/
theorem read_dataStream_run (hm : c.amode ≠ .vertical)
    (h : c.colPtr.toNat + bs.length ≤ max c.colPtr.toNat c.colEnd.toNat + 1) (a : Nat) :
    Memory.read (c.dataStream bs).ram a =
      if c.cursor ≤ a ∧ a < c.cursor + bs.length then bs[a - c.cursor]? else Memory.read c.ram a := by
  induction bs using List.reverseRecOn with
  | nil => exact (if_neg fun hin => absurd (hin.1.trans_lt hin.2) (lt_irrefl _)).symm
  | append_singleton bs b ih =>
    rw [List.length_append, List.length_singleton] at h ⊢
    obtain ⟨hcol, hpage⟩ := dataStream_inside hm (bs := bs) (by omega)
    have hlast : 128 * (c.dataStream bs).pagePtr.toNat + (c.dataStream bs).colPtr.toNat = c.cursor + bs.length := by
      rw [hcol, hpage, ← Nat.add_assoc, Controller.cursor]
    rw [dataStream_concat, read_data, hlast, ih (by omega)]
    by_cases ha : a = c.cursor + bs.length
    · rw [if_pos ha, if_pos (by omega), ha, Nat.add_sub_cancel_left, List.getElem?_concat_length]
    · rw [if_neg ha]
      by_cases hbefore : c.cursor ≤ a ∧ a < c.cursor + bs.length
      · rw [if_pos hbefore, if_pos (by omega), List.getElem?_append_left (by omega)]
      · rw [if_neg hbefore, if_neg (by omega)]

theorem read_dataStream_same (hm : c.amode ≠ .vertical)
    (h : c.colPtr.toNat + bs.length ≤ max c.colPtr.toNat c.colEnd.toNat + 1) {j : Nat} (hj : j < bs.length) :
    Memory.read (c.dataStream bs).ram (128 * c.pagePtr.toNat + (c.colPtr.toNat + j)) = bs[j]? := by
  rw [← Nat.add_assoc, ← Controller.cursor, read_dataStream_run hm h, if_pos (by omega), Nat.add_sub_cancel_left]

theorem read_dataStream_other (hm : c.amode ≠ .vertical)
    (h : c.colPtr.toNat + bs.length ≤ max c.colPtr.toNat c.colEnd.toNat + 1) {a : Nat}
    (ha : ∀ j, j < bs.length → a ≠ 128 * c.pagePtr.toNat + (c.colPtr.toNat + j)) :
    Memory.read (c.dataStream bs).ram a = Memory.read c.ram a := by
  rw [read_dataStream_run hm h, if_neg]
  rintro ⟨hle, hlt⟩
  refine ha (a - c.cursor) (by omega) ?_
  rw [← Nat.add_assoc, ← Controller.cursor, Nat.add_sub_cancel' hle]

theorem pixel_dataStream (hm : c.amode ≠ .vertical)
    (h : c.colPtr.toNat + bs.length ≤ max c.colPtr.toNat c.colEnd.toNat + 1) {j i : Nat} (hj : j < bs.length) (hi : i < 8) :
    (c.dataStream bs).pixel (c.colPtr.toNat + j) (8 * c.pagePtr.toNat + i) = (bs[j]?).map fun b => b.getLsbD i := by
  rw [pixel_eq _ _ _ hi, read_dataStream_same hm h hj]

end Run

/-! ## A glyph at the cursor (R84) -/

/-- Settles O58: a glyph is one run where it fits before the column end, and otherwise two, the second from the column start
of the next page. -/
theorem glyphSetsItsPixels : Obligations.GlyphSetsItsPixels := by
  intro c g hg hmode
  have hm : c.amode ≠ .vertical := by rw [hmode]; decide
  refine ⟨fun hfits => ?_, fun n hn hn8 => ?_⟩
  · have hrun : c.colPtr.toNat + g.length ≤ max c.colPtr.toNat c.colEnd.toNat + 1 := by omega
    refine ⟨fun j i hj => pixel_dataStream hm hrun (hg ▸ hj), fun hlt => ?_, fun heq => ?_, fun a ha => ?_⟩
    · exact hg ▸ dataStream_inside hm (by omega)
    · obtain ⟨hcol, hpage⟩ := dataStream_atEnd hm (List.ne_nil_of_length_pos (by omega)) (bs := g) (by omega)
      exact ⟨hcol, hpage.trans (if_pos hmode)⟩
    · exact read_dataStream_other hm hrun (hg ▸ ha)
  · have hlen : (g.take n).length = n := by rw [List.length_take]; omega
    have hlen' : (g.drop n).length = 8 - n := by rw [List.length_drop, hg]
    have hrun : c.colPtr.toNat + (g.take n).length = max c.colPtr.toNat c.colEnd.toNat + 1 := by omega
    obtain ⟨hcol, hpage⟩ := dataStream_atEnd hm (List.ne_nil_of_length_pos (by omega)) hrun
    rw [if_pos hmode] at hpage
    have hsplit : c.dataStream g = (c.dataStream (g.take n)).dataStream (g.drop n) := by
      rw [← dataStream_append, List.take_append_drop]
    refine ⟨fun j i hj hi => ?_, hcol, hpage, hsplit, fun hfits => ?_⟩
    · rw [pixel_dataStream hm hrun.le (hlen.symm ▸ hj) hi, List.getElem?_take_of_lt hj]
    · have hm' : (c.dataStream (g.take n)).amode ≠ .vertical := by rwa [dataStream_amode]
      have hrun' : (c.dataStream (g.take n)).colPtr.toNat + (g.drop n).length ≤
          max (c.dataStream (g.take n)).colPtr.toNat (c.dataStream (g.take n)).colEnd.toNat + 1 := by
        rw [hcol, dataStream_colEnd]
        omega
      rw [hsplit, ← hcol, ← hpage]
      refine ⟨fun j i hj hi => ?_, fun a ha ha' => ?_⟩
      · rw [pixel_dataStream hm' hrun' (hlen'.symm ▸ hj) hi, List.getElem?_drop]
      · rw [read_dataStream_other hm' hrun' (hlen'.symm ▸ ha'), read_dataStream_other hm hrun.le (hlen.symm ▸ ha)]

end Sys2Proof.Machine
end

section
/-! What the frames of the encoder do to the controller that takes them in (R87 to R90 in the observer of R47 to R49). -/

namespace Sys2Proof.Machine

/-! ## Counted runs of the controller -/

theorem run_internal {s u : State} (h : internalStep s = .next u) (ht : s.turns = []) (k : Nat) :
    Host.Core.run core (k + 1) s = Host.Core.run core k u :=
  run_succ (M := core) ((step_of_no_turns ht).trans h) k

/-- `s` with other bytes for the controller to take in. -/
def State.withRx (bs : List Byte) (s : State) : State := { s with ctl := { s.ctl with rx := bs } }

/-- The meanings of `is`, one after the other, up to the first that stops. -/
def execAll : List Instr → State → Host.Outcome State Fault Refusal
  | [], s => .next s
  | i :: is, s =>
    match exec i s with
    | .next t => execAll is t
    | stop => stop

theorem execAll_cons_next {i : Instr} {is : List Instr} {s t : State} (h : execAll (i :: is) s = .next t) :
    ∃ u, exec i s = .next u ∧ execAll is u = .next t := by
  unfold execAll at h
  split at h
  case h_1 u hu => exact ⟨u, hu, h⟩
  case h_2 hstop => exact absurd h (hstop t)

/-- A command neither reads nor changes the bytes after it. -/
theorem exec_command_withRx {i : Instr} (hi : i.port = .command) {s u : State} (h : exec i s = .next u) (bs : List Byte) :
    exec i (s.withRx bs) = .next (u.withRx bs) ∧ u.turns = s.turns ∧ u.ctl.rxPos = s.ctl.rxPos := by
  cases i with
  | openSession | closeSession | clear | setText | setBitmap | setQrcode | setContrast | setInversion | reserved00
  | reserved09FF | prefixSingleCommand | prefixCommandStream | prefixDataStream => cases hi
  | setMemMode m =>
    cases hm : AddrMode.ofBits (m.extractLsb' 0 2) with
    | some a =>
      cases (exec_setMemMode s hm).symm.trans h
      exact ⟨exec_setMemMode _ hm, rfl, rfl⟩
    | none => cases (exec_setMemMode_undefined s hm).symm.trans h
  | _ =>
    cases h
    exact ⟨rfl, rfl, rfl⟩

/-- The controller takes in a command stream in one step per command, and each step is the command's meaning (R47). -/
theorem run_commandStream {is : List Instr} (his : ∀ i ∈ is, i.port = .command) {s t : State} (ht : s.turns = [])
    (hpos : s.ctl.rxPos = .commandStream) (hx : execAll is s = .next t) :
    Host.Core.run core is.length (s.withRx (is.flatMap encode)) = .next (t.withRx []) := by
  induction is generalizing s with
  | nil =>
    cases hx
    rfl
  | cons i is ih =>
    obtain ⟨hi, his⟩ := List.forall_mem_cons.1 his
    obtain ⟨u, hu, hrest⟩ := execAll_cons_next hx
    obtain ⟨b, ps, he, hd⟩ := decodeCommand_encode hi
    obtain ⟨hexec, hturns, hpos'⟩ := exec_command_withRx hi hu (is.flatMap encode)
    have hstep : internalStep (s.withRx (b :: (ps ++ is.flatMap encode))) = .next (u.withRx (is.flatMap encode)) :=
      (internalStep_command (s := s.withRx _) ⟨rfl, hpos⟩ (hd _)).trans hexec
    rw [List.flatMap_cons, he, List.cons_append, List.length_cons, run_internal hstep ht]
    exact ih his (hturns.trans ht) (hpos'.trans hpos) hrest

/-- A frame of commands: a control byte, then the command stream. -/
theorem run_commandFrame {is : List Instr} (his : ∀ i ∈ is, i.port = .command) {s t : State} (ht : s.turns = [])
    (h : s.receiving .control (0x00 :: is.flatMap encode))
    (hx : execAll is { s with ctl := { s.ctl with rxPos := .commandStream } } = .next t) :
    Host.Core.run core (is.length + 1) s = .next (t.withRx []) := by
  rw [run_internal (internalStep_controlRow (i := .prefixCommandStream) h rfl) ht]
  exact run_commandStream his (s := { s with ctl := { s.ctl with rxPos := .commandStream } }) ht rfl hx

/-- A frame of data: a control byte, then the data stream, which the controller takes in whole. -/
theorem run_dataFrame {s : State} {g : List Byte} (ht : s.turns = []) (h : s.receiving .control (dataFrame g))
    (hg : g ≠ []) : Host.Core.run core 2 s = .next { s with ctl := s.ctl.afterData.dataStream g } := by
  obtain ⟨b, bs, rfl⟩ := List.exists_cons_of_ne_nil hg
  have hprefix : internalStep s = .next { s with ctl := { s.ctl with rx := b :: bs, rxPos := .dataStream } } :=
    internalStep_controlRow (i := .prefixDataStream) h rfl
  have hdata : internalStep { s with ctl := { s.ctl with rx := b :: bs, rxPos := .dataStream } } = .next
      { s with ctl := s.ctl.afterData.dataStream (b :: bs) } := internalStep_dataStream ⟨rfl, rfl⟩
  exact (run_internal hprefix ht 1).trans (run_internal hdata ht 0)

/-- A clear-page frame: the page command after its own control byte, then a data frame of zeros. -/
theorem run_clearPageFrame {s : State} {W : Nat} {N : Page} (ht : s.turns = [])
    (h : s.receiving .control (clearPageFrame W N)) (hW : 1 ≤ W) :
    Host.Core.run core 4 s = .next { s with ctl := (s.ctl.afterData.atPage N).dataStream (zeros W) } := by
  have hzeros : zeros W ≠ [] := List.ne_nil_of_length_pos (by rwa [zeros, List.length_replicate])
  have hprefix : internalStep s = .next
      { s with ctl := { s.ctl with rx := pageCommand N :: dataFrame (zeros W), rxPos := .singleCommand } } :=
    internalStep_controlRow (i := .prefixSingleCommand) h rfl
  have hpage : internalStep
      { s with ctl := { s.ctl with rx := pageCommand N :: dataFrame (zeros W), rxPos := .singleCommand } } = .next
      { s with ctl := { s.ctl with rx := dataFrame (zeros W), rxPos := .control, pagePtr := N } } :=
    internalStep_singleCommand ⟨rfl, rfl⟩ (decode_setPage N)
  exact (run_internal hprefix ht 3).trans <| (run_internal hpage ht 2).trans <| run_dataFrame ht ⟨rfl, rfl⟩ hzeros

/-! ## The cursor after a RESET frame (R89) -/

/-- SET_COL_LO 0, then SET_COL_HI 0: no bit of the old column is left. -/
theorem column_reset : ∀ x : Column,
    ((0 : BitVec 3).zeroExtend 7 <<< 4) ||| (((x &&& 0x70) ||| (0 : BitVec 4).zeroExtend 7) &&& 0x0F) = 0 := by decide

/-- Settles O55: the frame is the three pointer commands in a command stream. -/
theorem resetFrameSetsTheCursor : Obligations.ResetFrameSetsTheCursor := by
  intro s N ht h
  rw [← column_reset s.ctl.colPtr]
  exact run_commandFrame (is := [.setPage N, .setColLo 0, .setColHi 0]) (by simp [Instr.port]) ht h rfl

/-! ## Data and clear-page frames (R88, R90) -/

/-- Settles O56: the frames are data streams after their control bytes, and a run up to the column end is one of
`read_dataStream_run`, which `dataStream_inside` and `dataStream_atEnd` say the cursor of. -/
theorem dataFramesWriteFromTheCursor : Obligations.DataFramesWriteFromTheCursor := by
  refine ⟨fun s g ht h hg => run_dataFrame ht h hg, fun s W N ht h hW => run_clearPageFrame ht h hW, fun c g => rfl,
    fun c g hm hg hrun => ?_⟩
  have hrun' : c.colPtr.toNat + g.length ≤ max c.colPtr.toNat c.colEnd.toNat + 1 :=
    hrun.trans (Nat.succ_le_succ (le_max_right ..))
  refine ⟨fun j hj => read_dataStream_same hm hrun' hj, fun a ha => read_dataStream_other hm hrun' ha, fun hlt => ?_,
    fun heq => ?_⟩
  · exact dataStream_inside hm (hlt.trans (le_max_right ..))
  · have hpos : 0 < g.length := List.length_pos_iff.2 hg
    exact dataStream_atEnd hm hg (by omega)

/-! ## The settings after an INIT frame (R87) -/

/-- An admissible tuning's orientation bytes are the two commands themselves, so the shadow of each is the byte (R86). -/
theorem orientation_of_admissible {t : InitTuning} (ht : t.admissible = true) :
    (if t.segRemap == 0xA1 then 0xA1 else 0xA0) = t.segRemap ∧ (if t.comScan == 0xC8 then 0xC8 else 0xC0) = t.comScan := by
  simp only [InitTuning.admissible, Bool.and_eq_true, Bool.or_eq_true, beq_iff_eq] at ht
  obtain ⟨⟨-, hseg⟩, hcom⟩ := ht
  constructor
  · obtain h | h := hseg <;> rw [h] <;> rfl
  · obtain h | h := hcom <;> rw [h] <;> rfl

/-- The fifteen commands of an INIT frame, each setting a register of its own. -/
theorem execAll_initCommands {t : InitTuning} (ht : t.admissible = true) (H : Nat) (s : State) :
    execAll (initCommands t H) s = .next { s with ctl := { s.ctl with
      on := true, inverted := false, amode := .horizontal, contrast := 0x7F, clockDiv := t.clockDiv,
      muxRatio := muxParameter H, offset := 0, startLine := 0, chargePump := 0x14, segRemap := t.segRemap,
      comScan := t.comScan, comPins := comPinsOf t H, precharge := t.precharge, vcomh := t.vcomh } } := by
  obtain ⟨hseg, hcom⟩ := orientation_of_admissible ht
  rw [← chargePump_of_admissible ht]
  conv_rhs => rw [← hseg, ← hcom]
  rfl

/-- Settles O57: the frame is the command stream of `initCommands`. -/
theorem initFrameConfiguresTheController : Obligations.InitFrameConfiguresTheController := by
  intro s H ht h _ hadm
  rw [initFrame_eq_commands hadm] at h
  exact run_commandFrame (fun i hi => (initCommands_defined s.par.tuning H i hi).left) ht h (execAll_initCommands hadm H _)

end Sys2Proof.Machine
end

section
/-! An operation one of whose writes fails ends there (R101, R108, R124). -/

namespace Sys2Proof.Machine

/-- In `t` the operation `op`, in flight in `s`, has ended at its write number `n` from `s` on, the first that failed. -/
structure Failed (s : State) (op : Operation) (n : Nat) (reason : TransportReason) (rest : List Answer) (t : State) :
    Prop where
  inflight : t.inflight = none
  reg : t.reg = s.reg
  queue : t.queue = s.queue
  answers : t.answers = rest
  writes : writesOf t.trace = writesOf s.trace ++ ((op.frames.drop s.seq).take (n + 1)).map fun f => (op.addr, f)
  answered : ∃ es, t.trace = es ++ [.respond op.caller (.err .transport (.reason reason))]

section
variable {s : State} {op : Operation} {f : Frame}

theorem emitFail_failed (hf : op.frames[s.seq]? = some f) (reason : TransportReason) (k : Nat) (rest : List Answer) :
    Failed s op 0 reason rest (emitFail op f reason k { s with answers := rest }) where
  inflight := emitFail_inflight ..
  reg := emitFail_reg ..
  queue := emitFail_queue ..
  answers := emitFail_answers ..
  writes := by
    obtain ⟨hlt, rfl⟩ := List.getElem?_eq_some_iff.1 hf
    rw [emitFail_trace, writesOf_append, List.drop_eq_getElem_cons hlt]
    rfl
  answered := ⟨s.trace ++ [.write op.caller op.addr f (.fail reason k)], by rw [emitFail_trace, List.append_assoc]; rfl⟩

/-- What fails after the next write, which the transport took, fails one write later from here. -/
theorem Failed.of_afterWrite {t : State} {as rest : List Answer} {c : Controller} {m n : Nat} {reason : TransportReason}
    (hf : op.frames[s.seq]? = some f) (h : Failed ((afterWrite op f as s).withPanel c m) op n reason rest t) :
    Failed s op (n + 1) reason rest t where
  inflight := h.inflight
  reg := h.reg
  queue := h.queue
  answers := h.answers
  writes := by
    obtain ⟨hlt, rfl⟩ := List.getElem?_eq_some_iff.1 hf
    calc writesOf t.trace
      _ = writesOf (s.trace ++ [.write op.caller op.addr op.frames[s.seq] .ok]) ++
          ((op.frames.drop (s.seq + 1)).take (n + 1)).map fun f => (op.addr, f) := h.writes
      _ = writesOf s.trace ++ ((op.frames.drop s.seq).take (n + 1 + 1)).map fun f => (op.addr, f) := by
        rw [List.drop_eq_getElem_cons hlt, List.take_succ_cons, List.map_cons, writesOf_append, List.append_assoc]
        rfl
  answered := h.answered

/-- A write of a readable frame that the transport takes: the panel then takes the frame in whole (R50). -/
theorem reaches_afterWrite {as : List Answer} (ht : s.turns = []) (ho : s.inflight = some op)
    (hf : op.frames[s.seq]? = some f) (hread : Readable .control f) (ha : s.answers = .ok :: as) (hrx : s.ctl.rx = [])
    (hok : s.ctl.ok) :
    ∃ c m, Reaches s ((afterWrite op f as s).withPanel c m) ∧ c.rx = [] ∧ c.ok := by
  have hstep : internalStep s = .next (toPanel op.addr f (afterWrite op f as s)) := by
    rw [internalStep_engine hrx, engineStep_emit ho hf, emitStep_ok ha, emitOk_eq_afterWrite]
  have hsettles : (toPanel op.addr f (afterWrite op f as s)).settles Controller.ok :=
    settles_ok ((toPanel_turns ..).trans ht) (toPanel_ctl_ok hread op.addr hok)
  obtain ⟨c, m, hreach, hdone, hc⟩ := toPanel_settles_iff.1 hsettles
  exact ⟨c, m, .internal ht hstep hreach, hdone, hc⟩

end

/-- After `n` writes that succeed and one that fails, the operation has ended. -/
theorem operation_fails {op : Operation} (hread : ∀ f ∈ op.frames, Readable .control f) {s : State} {n k : Nat}
    {reason : TransportReason} {rest : List Answer} (ht : s.turns = []) (ho : s.inflight = some op)
    (hlt : s.seq + n < op.frames.length) (ha : s.answers = List.replicate n .ok ++ .fail reason k :: rest)
    (hrx : s.ctl.rx = []) (hok : s.ctl.ok) : ∃ t, Reaches s t ∧ Failed s op n reason rest t := by
  induction n generalizing s with
  | zero =>
    obtain ⟨f, hf⟩ : ∃ f, op.frames[s.seq]? = some f := ⟨_, List.getElem?_eq_getElem (by omega)⟩
    have hstep : internalStep s = .next (emitFail op f reason k { s with answers := rest }) := by
      rw [internalStep_engine hrx, engineStep_emit ho hf, emitStep_fail ha]
    exact ⟨_, .internal ht hstep .refl, emitFail_failed hf reason k rest⟩
  | succ n ih =>
    obtain ⟨f, hf⟩ : ∃ f, op.frames[s.seq]? = some f := ⟨_, List.getElem?_eq_getElem (by omega)⟩
    obtain ⟨c, m, hsu, hrx', hok'⟩ := reaches_afterWrite ht ho hf (hread f (List.mem_of_getElem? hf)) ha hrx hok
    have hleft : s.seq + 1 + n < op.frames.length := by omega
    obtain ⟨t, hut, hfail⟩ := ih (s := (afterWrite op f _ s).withPanel c m) ht ho hleft rfl hrx' hok'
    exact ⟨t, hsu.trans hut, hfail.of_afterWrite hf⟩

/-- Settles O52: the panel first takes in what it has, then come the `n` writes that succeed and the one that fails. -/
theorem failedWriteEndsTheOperation : Obligations.FailedWriteEndsTheOperation := by
  intro s op n reason k rest hinv ht ho hlt ha
  have hreadable := hinv.framesReadable op ho
  obtain ⟨-, -, -, -, -, hok⟩ := hinv
  obtain ⟨c, m, hsu, hrx, hc⟩ := settles_ok ht hok
  obtain ⟨t, hut, hfail⟩ := operation_fails hreadable (s := s.withPanel c m) ht ho hlt ha hrx hc
  obtain ⟨j, hj⟩ := Reaches.run (hsu.trans hut)
  exact ⟨j, t, hj, hfail.inflight, hfail.reg, hfail.queue, hfail.answers, hfail.writes, hfail.answered⟩

end Sys2Proof.Machine
end

section
/-! The plans of the render pipeline, frame by frame (42_render_pipeline.md; R93 to R100). -/

namespace Sys2Proof.Machine

/-! ## The accept step of a display request on an Open session (R103, R105) -/

section
variable {s : State} {c : Nat} {req : Request} {rest : List (Nat × Request)}

theorem gate_display_opened {x : Sess} (hs : x = .opened) : gate x .display = none := by
  rw [hs]
  rfl

theorem accept_display_plan (h : s.head c req rest) (hs : s.reg.sess = .opened) {pl : Planned} {fs : List Frame}
    {a : BusAddr} {k : Commit} (hp : pl = .plan fs a k) :
    accept .display pl s.textPage s = .next (started s c req rest fs a k) :=
  accept_start h (gate_display_opened hs) hp

theorem accept_display_error (h : s.head c req rest) (hs : s.reg.sess = .opened) {pl : Planned} {page : Page}
    {k : ErrKind} {info : Info} (hp : pl = .error k info) :
    accept .display pl page s = .next (turnedAway s c rest k info) :=
  accept_planError h (gate_display_opened hs) hp

end

/-! ## CLEAR (R93) -/

/-- Settles O12: the plan lists the clear-page frames of the pages in their order. -/
theorem clearPlansOneFramePerPage : Obligations.ClearPlansOneFramePerPage := by
  intro s c req rest h hs
  refine ⟨_, accept_display_plan h hs rfl, ?_, fun N (hN : N < s.reg.pages) => ?_⟩
  · rw [List.length_map, List.length_range]
    rfl
  · rw [List.getElem?_map, List.getElem?_range hN]
    rfl

/-! ## SET_TEXT (R94) -/

section
variable {P : Nat}

/-- A newline goes from the page of the newlines so far to the page of one more (R20). -/
theorem nextPage_ofNat_mod (hpos : 0 < P) (hP : P ≤ 8) (k : Nat) :
    nextPage P (BitVec.ofNat 3 (k % P)) = BitVec.ofNat 3 ((k + 1) % P) := by
  rw [nextPage, toNat_ofNat_page ((Nat.mod_lt k hpos).trans_le hP), Nat.mod_add_mod]

theorem foldl_nextPage (hpos : 0 < P) (hP : P ≤ 8) (text : List Byte) (k : Nat) :
    text.foldl (fun page b => if b = newline then nextPage P page else page) (BitVec.ofNat 3 (k % P)) =
      BitVec.ofNat 3 ((k + text.count newline) % P) := by
  induction text generalizing k with
  | nil => rfl
  | cons b bs ih =>
    rw [List.foldl_cons]
    split_ifs with hb
    · rw [nextPage_ofNat_mod hpos hP, ih, hb, List.count_cons_self, Nat.add_right_comm, Nat.add_assoc]
    · rw [ih, List.count_cons_of_ne hb]

/-- The counter ends on the page that the number of newlines gives (R20). -/
theorem lastPage_eq (hpos : 0 < P) (hP : P ≤ 8) (text : List Byte) :
    lastPage P text = BitVec.ofNat 3 (text.count newline % P) := by
  have h := foldl_nextPage hpos hP text 0
  rwa [Nat.zero_mod, Nat.zero_add] at h

end

/-- The glyph of a code, with a blank for a code that has none (R81, R83). -/
def glyphOrBlank (font : List Byte) (b : Byte) : List Byte :=
  if b.toNat < 0x80 then (font.drop (8 * b.toNat)).take 8 else List.replicate 8 0x00

theorem rasterGlyph_eq_glyphOrBlank {policy : HighCodePolicy} {b : Byte} (h : policy = .reject → b.toNat < 0x80)
    (font : List Byte) : rasterGlyph policy font b = some (glyphOrBlank font b) := by
  unfold glyphOrBlank
  split_ifs with hb
  · rw [rasterGlyph_low policy font (by omega), glyph_inside font (by omega) (by omega)]
    rfl
  · cases policy with
    | blank => exact rasterGlyph_blank font (by omega)
    | reject => exact absurd (h rfl) hb

/-- The frame of the text byte `b`, when `lines` newlines have been planned, `b` with them (R94). -/
def textFrame (font : List Byte) (P lines : Nat) (b : Byte) : Frame :=
  if b = newline then resetFrame (BitVec.ofNat 3 (lines % P)) else dataFrame (glyphOrBlank font b)

theorem textFrame_eq (font : List Byte) (P lines : Nat) (b : Byte) : textFrame font P lines b =
    if b = 0x0A then resetFrame (BitVec.ofNat 3 (lines % P))
    else if b.toNat < 0x80 then 0x40 :: ((font.drop (8 * b.toNat)).take 8)
    else 0x40 :: List.replicate 8 0x00 := by
  unfold textFrame newline glyphOrBlank
  split_ifs <;> rfl

/-- `fs` has one frame per byte of `text`, planned after `k` newlines. -/
def TextPlan (font : List Byte) (P k : Nat) (text : List Byte) (fs : List Frame) : Prop :=
  fs.length = text.length ∧
    ∀ i b, text[i]? = some b → fs[i]? = some (textFrame font P (k + (text.take (i + 1)).count newline) b)

section
variable {font : List Byte} {P k : Nat} {b : Byte} {text : List Byte} {fs : List Frame}

theorem TextPlan.nil : TextPlan font P k [] [] := ⟨rfl, nofun⟩

theorem TextPlan.newline_cons (h : TextPlan font P (k + 1) text fs) :
    TextPlan font P k (newline :: text) (resetFrame (BitVec.ofNat 3 ((k + 1) % P)) :: fs) := by
  obtain ⟨hlen, hfs⟩ := h
  refine ⟨congrArg Nat.succ hlen, fun i b hi => ?_⟩
  cases i with
  | zero =>
    obtain rfl : newline = b := by simpa using hi
    rfl
  | succ i =>
    rw [List.take_succ_cons, List.count_cons_self, ← Nat.add_assoc, Nat.add_right_comm]
    exact hfs i b hi

theorem TextPlan.glyph_cons (hb : b ≠ newline) (h : TextPlan font P k text fs) :
    TextPlan font P k (b :: text) (dataFrame (glyphOrBlank font b) :: fs) := by
  obtain ⟨hlen, hfs⟩ := h
  refine ⟨congrArg Nat.succ hlen, fun i a hi => ?_⟩
  cases i with
  | zero =>
    obtain rfl : b = a := by simpa using hi
    rw [textFrame, if_neg hb]
    rfl
  | succ i =>
    rw [List.take_succ_cons, List.count_cons_of_ne hb]
    exact hfs i a hi

/-- With every code rendered, the planning goes through the text and plans one frame per byte. -/
theorem textFrames_plan {policy : HighCodePolicy} (hpos : 0 < P) (hP : P ≤ 8)
    (hlow : policy = .reject → ∀ b ∈ text, b.toNat < 0x80) :
    ∃ fs, textFrames policy font P (BitVec.ofNat 3 (k % P)) text = .ok fs ∧ TextPlan font P k text fs := by
  induction text generalizing k with
  | nil => exact ⟨[], rfl, .nil⟩
  | cons b bs ih =>
    have hbs (hp : policy = .reject) : ∀ a ∈ bs, a.toNat < 0x80 := fun a ha => hlow hp a (List.mem_cons_of_mem b ha)
    unfold textFrames
    split_ifs with hb
    · obtain ⟨fs, hfs, hplan⟩ := ih (k := k + 1) hbs
      rw [nextPage_ofNat_mod hpos hP, hfs, hb]
      exact ⟨_, rfl, hplan.newline_cons⟩
    · obtain ⟨fs, hfs, hplan⟩ := ih (k := k) hbs
      rw [rasterGlyph_eq_glyphOrBlank (fun hp => hlow hp b List.mem_cons_self) font, hfs]
      exact ⟨_, rfl, hplan.glyph_cons hb⟩

end

theorem firstHigh_eq_none_iff {text : List Byte} : firstHigh text = none ↔ ∀ b ∈ text, b.toNat < 0x80 := by
  simp [firstHigh, List.findIdx?_eq_none_iff]

theorem firstHigh_append_cons {low : List Byte} (hlow : ∀ a ∈ low, a.toNat < 0x80) {b : Byte} (hb : 0x80 ≤ b.toNat)
    (text : List Byte) : firstHigh (low ++ b :: text) = some low.length := by
  have hnone : (low.findIdx? fun b => decide (0x80 ≤ b.toNat)) = none := firstHigh_eq_none_iff.2 hlow
  rw [firstHigh, List.findIdx?_append, hnone, List.findIdx?_cons, if_pos (decide_eq_true hb)]
  exact congrArg some (Nat.zero_add _)

theorem planText_high {r : Session} {text : List Byte} {i : Nat} (h : firstHigh text = some i) :
    planText .reject r text = .error .outOfRange (.textIndex i) := by
  unfold planText
  rw [h]

theorem planText_frames {policy : HighCodePolicy} {r : Session} {text : List Byte} {fs : List Frame}
    (hlow : policy = .reject → firstHigh text = none) (hfs : textFrames policy r.font r.pages 0 text = .ok fs) :
    planText policy r text = .plan (resetFrame 0 :: fs) r.addr .keep := by
  unfold planText
  cases policy with
  | blank => rw [hfs]
  | reject => rw [hlow rfl, hfs]

/-- Settles O13: the frames after the reset to page 0 are planned from no newline on, and the counter counts all of them. -/
theorem textPlansOneFramePerByte : Obligations.TextPlansOneFramePerByte := by
  intro s c req rest text h hs hH hlow
  have hpos : 0 < s.reg.pages := by unfold Session.pages; omega
  have hP : s.reg.pages ≤ 8 := by unfold Session.pages; omega
  obtain ⟨fs, hfs, hlen, hframe⟩ := textFrames_plan (font := s.reg.font) (k := 0) hpos hP hlow
  rw [Nat.zero_mod] at hfs
  have hplan := planText_frames (fun hp => firstHigh_eq_none_iff.2 (hlow hp)) hfs
  refine ⟨resetFrame 0 :: fs, ?_, by rw [List.length_cons, hlen, Nat.add_comm], rfl, fun i b hi => ?_⟩
  · have hpage := lastPage_eq hpos hP text
    rw [exec, execSetText, hpage]
    exact accept_start h (gate_display_opened hs) hplan
  · rw [List.getElem?_cons_succ, hframe i b hi, Nat.zero_add]
    exact congrArg some (textFrame_eq ..)

/-- Settles O14: the bytes before the high one are low, so it is the first. -/
theorem textRejectsHighCodes : Obligations.TextRejectsHighCodes := by
  intro s c req rest low b text h hs hpolicy hlow hb
  refine accept_display_error h hs ?_
  rw [hpolicy]
  exact planText_high (firstHigh_append_cons hlow hb text)

/-! ## SET_BITMAP and SET_QRCODE (R96 to R98) -/

section
variable (bytes : List Byte) (w n : Nat)

theorem bitmapFrames_succ : bitmapFrames bytes w (n + 1) =
    bitmapFrames bytes w n ++ [resetFrame (BitVec.ofNat 3 n), dataFrame (memRead bytes (n * w) w)] := by
  rw [bitmapFrames, List.range_succ, List.flatMap_append]
  rfl

theorem bitmapFrames_length : (bitmapFrames bytes w n).length = 2 * n := by
  induction n with
  | zero => rfl
  | succ n ih => rw [bitmapFrames_succ, List.length_append, ih]; rfl

/-- Page `p` has the frames `2 * p` and `2 * p + 1`: the reset to it and its run (R96). -/
theorem bitmapFrames_page {p : Nat} (hp : p < n) :
    (bitmapFrames bytes w n)[2 * p]? = some (resetFrame (BitVec.ofNat 3 p)) ∧
    (bitmapFrames bytes w n)[2 * p + 1]? = some (dataFrame (memRead bytes (p * w) w)) := by
  induction n with
  | zero => exact absurd hp (Nat.not_lt_zero p)
  | succ n ih =>
    have hlen := bitmapFrames_length bytes w n
    rw [bitmapFrames_succ]
    obtain hlt | rfl := Nat.lt_succ_iff_lt_or_eq.1 hp
    · rw [List.getElem?_append_left (by omega), List.getElem?_append_left (by omega)]
      exact ih hlt
    · rw [List.getElem?_append_right (by omega), List.getElem?_append_right (by omega), hlen, Nat.sub_self,
        Nat.add_sub_cancel_left]
      exact ⟨rfl, rfl⟩

end

/-- The dimensions and the length that SET_BITMAP takes (R31, R96). -/
def Session.fits (r : Session) (bytes : List Byte) (w h : Int) : Prop :=
  1 ≤ w ∧ w ≤ r.W ∧ 8 ≤ h ∧ h ≤ r.H ∧ h % 8 = 0 ∧ (bytes.length : Int) = w * (h / 8)

section
variable {r : Session} {bytes : List Byte} {w h : Int}

theorem planBitmap_fits (hfits : r.fits bytes w h) :
    planBitmap r bytes w h = .plan (bitmapFrames bytes w.toNat (h / 8).toNat) r.addr .keep := by
  obtain ⟨hw, hW, hh, hH, hmod, hlen⟩ := hfits
  refine if_neg ?_
  push Not
  exact ⟨hw, hW, hh, hH, hmod, hlen⟩

theorem planBitmap_misfits (hfits : ¬r.fits bytes w h) :
    planBitmap r bytes w h = .error .outOfRange (.bitmap w h bytes.length) := by
  refine if_pos ?_
  contrapose! hfits
  exact hfits

/-- The run of each page lies inside the payload. -/
theorem Session.fits.run_le (hfits : r.fits bytes w h) {p : Nat} (hp : p < (h / 8).toNat) :
    p * w.toNat + w.toNat ≤ bytes.length := by
  obtain ⟨hw, -, hh, -, -, hlen⟩ := hfits
  have hcount : bytes.length = w.toNat * (h / 8).toNat := by
    zify
    rwa [Int.toNat_of_nonneg (by omega), Int.toNat_of_nonneg (by omega)]
  calc p * w.toNat + w.toNat
    _ = w.toNat * (p + 1) := by ring
    _ ≤ w.toNat * (h / 8).toNat := Nat.mul_le_mul_left _ hp
    _ = bytes.length := hcount.symm

/-- A payload of the whole display fits it. -/
theorem Session.fits_display (hsize : legalSize r.W r.H) (hlen : bytes.length = r.W * (r.H / 8)) :
    r.fits bytes r.W r.H := by
  obtain ⟨hW, -, hH⟩ := hsize
  refine ⟨by omega, le_rfl, by omega, le_rfl, by omega, ?_⟩
  rw [hlen]
  push_cast
  rfl

theorem planQr_geometry {g : QrGeometry} (hg : qrGeometry g bytes r.W r.H = some (w, h)) :
    planQr g r bytes = planBitmap r bytes w h := by
  rw [planQr, hg]

theorem planQr_noGeometry {g : QrGeometry} (hg : qrGeometry g bytes r.W r.H = none) :
    planQr g r bytes = .error .outOfRange (.payload bytes.length) := by
  rw [planQr, hg]

theorem exec_setQrcode_geometry {s : State} (hg : qrGeometry s.par.qr bytes s.reg.W s.reg.H = some (w, h)) :
    exec (.setQrcode bytes) s = exec (.setBitmap bytes w h) s :=
  congrArg (fun pl => accept .display pl s.textPage s) (planQr_geometry hg)

theorem exec_setBitmap_fits {s : State} {c : Nat} {req : Request} {rest : List (Nat × Request)}
    (hh : s.head c req rest) (hs : s.reg.sess = .opened) (hfits : s.reg.fits bytes w h) :
    exec (.setBitmap bytes w h) s =
      .next (started s c req rest (bitmapFrames bytes w.toNat (h / 8).toNat) s.reg.addr .keep) :=
  accept_display_plan hh hs (planBitmap_fits hfits)

end

/-- Settles O15: the plan has two frames per page, and the run of a page is `w` bytes of the payload. -/
theorem bitmapPlansPageRuns : Obligations.BitmapPlansPageRuns := by
  intro s c req rest bytes w h hh hs
  refine ⟨fun hfits => ⟨_, exec_setBitmap_fits hh hs hfits, bitmapFrames_length .., fun p hp => ?_⟩,
    fun hfits => accept_display_error hh hs (planBitmap_misfits hfits)⟩
  obtain ⟨hreset, hrun⟩ := bitmapFrames_page bytes w.toNat _ hp
  exact ⟨hreset, _, hrun, memRead_length (Session.fits.run_le hfits hp), fun x hx => getElem?_memRead bytes _ hx⟩

/-- Settles O16: the default geometry of a full-screen payload is the display itself, which a bitmap may fill. -/
theorem qrcodePlansItsGeometry : Obligations.QrcodePlansItsGeometry := by
  intro s c req rest bytes hh hs
  have hdefault (hqr : s.par.qr = .fullScreen) : qrGeometry s.par.qr bytes s.reg.W s.reg.H =
      if bytes.length = s.reg.W * (s.reg.H / 8) then some ((s.reg.W : Int), (s.reg.H : Int)) else none := by
    rw [hqr, qrGeometry]
  refine ⟨fun w h hg => exec_setQrcode_geometry hg,
    fun hg => accept_display_error hh hs (planQr_noGeometry hg), hdefault, fun hsize hqr hlen => ?_⟩
  have hexec : exec (.setQrcode bytes) s = _ :=
    (exec_setQrcode_geometry ((hdefault hqr).trans (if_pos hlen))).trans
      (exec_setBitmap_fits hh hs (Session.fits_display hsize hlen))
  exact ⟨_, hexec, bitmapFrames_length .., fun p hp => bitmapFrames_page bytes _ _ hp⟩

/-! ## SET_CONTRAST and SET_INVERSION (R99, R100) -/

theorem contrastFrame_of_nonneg {v : Int} (hv : 0 ≤ v) : contrastFrame v = [0x00, 0x81, BitVec.ofNat 8 v.toNat] := by
  lift v to Nat using hv
  rw [contrastFrame, BitVec.ofInt_natCast, Int.toNat_natCast]

theorem inversionFrame_eq (b : Bool) : inversionFrame b = [0x80, if b then 0xA7 else 0xA6] := by cases b <;> rfl

/-- Settles O17: each request has the one frame of its operand, and a contrast outside the byte has none. -/
theorem contrastAndInversionPlanOneFrame : Obligations.ContrastAndInversionPlanOneFrame := by
  intro s c req rest h hs
  refine ⟨fun v h0 h255 => ?_, fun v hv => accept_display_error h hs (if_pos hv), fun b => ?_⟩
  · rw [← contrastFrame_of_nonneg h0]
    exact accept_display_plan h hs (if_neg (by omega))
  · rw [← inversionFrame_eq]
    exact accept_display_plan h hs rfl

end Sys2Proof.Machine
end

section
/-! The request at the head of the queue is answered (R110). -/

namespace Sys2Proof.Machine

theorem run_succ_next {M : Host.Core} {s t : M.State} {k : Nat} (h : M.run (k + 1) s = .next t) :
    ∃ u, M.step s = .next u ∧ M.run k u = .next t := by
  rw [Host.Core.run] at h
  split at h
  · next u hu => exact ⟨u, hu, h⟩
  · cases h
  · cases h

theorem Reaches.of_run {s t : State} {k : Nat} (h : Host.Core.run core k s = .next t) : Reaches s t := by
  induction k generalizing s with
  | zero =>
    cases h
    exact .refl
  | succ k ih =>
    obtain ⟨u, hu, hrun⟩ := run_succ_next h
    exact Relation.ReflTransGen.head hu (ih hrun)

/-- A run keeps the invariant. -/
theorem Reaches.inv {s t : State} (h : Reaches s t) (hs : s.Inv) : t.Inv := by
  induction h with
  | refl => exact hs
  | tail _ hstep ih => exact stepKeepsTheInvariant _ _ ih hstep

/-- From `s` the machine gets to where caller `c` has just been answered, nothing is in flight and `rest` is queued. -/
def State.answersCaller (s : State) (c : Nat) (rest : List (Nat × Request)) : Prop :=
  ∃ t, Reaches s t ∧ t.queue = rest ∧ t.inflight = none ∧ ∃ es r, t.trace = es ++ [.respond c r]

/-! ## The operation in flight -/

/-- The first `n` answers of the transport are all `ok`, or one of them is the first that fails. -/
theorem answers_ok_or_fail {n : Nat} {as : List Answer} (h : n ≤ as.length) :
    (∃ rest, as = List.replicate n .ok ++ rest) ∨
    ∃ m reason k rest, m < n ∧ as = List.replicate m .ok ++ .fail reason k :: rest := by
  induction n generalizing as with
  | zero => exact .inl ⟨as, rfl⟩
  | succ n ih =>
    cases as with
    | nil => cases h
    | cons a as =>
      cases a with
      | fail reason k => exact .inr ⟨0, reason, k, as, n.succ_pos, rfl⟩
      | ok =>
        obtain ⟨rest, rfl⟩ | ⟨m, reason, k, rest, hm, rfl⟩ := ih (Nat.le_of_succ_le_succ h)
        · exact .inl ⟨rest, rfl⟩
        · exact .inr ⟨m + 1, reason, k, rest, Nat.succ_lt_succ hm, rfl⟩

/-- With an answer for each of its remaining frames, the operation in flight ends: at its last frame (O51) or at the first
write that fails (O52). -/
theorem State.Inv.operation_answered {s : State} {op : Operation} (hinv : s.Inv) (ht : s.turns = [])
    (ho : s.inflight = some op) (hlen : op.frames.length - s.seq ≤ s.answers.length) :
    s.answersCaller op.caller s.queue := by
  obtain ⟨rest, ha⟩ | ⟨m, reason, k, rest, hm, ha⟩ := answers_ok_or_fail hlen
  · obtain ⟨_, t, hrun, hi, -, hq, -, -, es, htrace⟩ := operationRunsToCompletion s op rest hinv ht ho ha
    exact ⟨t, .of_run hrun, hq, hi, es, _, htrace⟩
  · obtain ⟨_, t, hrun, hi, -, hq, -, -, es, htrace⟩ :=
      failedWriteEndsTheOperation s op m reason k rest hinv ht ho (by omega) ha
    exact ⟨t, .of_run hrun, hq, hi, es, _, htrace⟩

/-! ## The accept step -/

theorem State.head.unique {s : State} {c c' : Nat} {req req' : Request} {rest rest' : List (Nat × Request)}
    (h : s.head c req rest) (h' : s.head c' req' rest') : c' = c ∧ req' = req ∧ rest' = rest := by
  cases h.2.symm.trans h'.2
  exact ⟨rfl, rfl, rfl⟩

/-- The accept step starts an operation for the head of the queue, or answers it with an error (R103). -/
theorem acceptStep_head {s : State} {c : Nat} {req : Request} {rest : List (Nat × Request)} (h : s.head c req rest) :
    (∃ fs a k page, acceptStep s = .next { started s c req rest fs a k with textPage := page }) ∨
    ∃ k info, acceptStep s = .next (turnedAway s c rest k info) := by
  unfold acceptStep
  rw [h.2]
  dsimp only
  cases hd : decodeRequest req with
  | ok i =>
    obtain ⟨t, hx⟩ := exec_request_goes (decodeRequest_port hd) h
    dsimp only
    rw [hx]
    obtain ⟨c', req', rest', hh, ht⟩ := exec_request_next (decodeRequest_port hd) hx
    obtain ⟨rfl, rfl, rfl⟩ := h.unique hh
    obtain ⟨fs, a, k, page, rfl, -⟩ | ⟨k, info, rfl⟩ := ht
    · exact .inl ⟨fs, a, k, page, rfl⟩
    · exact .inr ⟨k, info, rfl⟩
  | reject r => exact .inr ⟨_, _, acceptUnsupported_head h⟩

/-- `s` with other answers of the transport to come. -/
def State.withAnswers (as : List Answer) (s : State) : State := { s with answers := as }

theorem acceptFrame_withAnswers (as : List Answer) : AcceptFrame (State.withAnswers as) where
  reg _ := rfl
  par _ := rfl
  textPage _ := rfl
  queue _ := rfl
  inflight _ := rfl
  turnedAway _ _ _ _ _ := rfl
  started _ _ _ _ _ _ _ _ := rfl

/-- Whatever the transport will answer, the panel takes in what it has, and then comes the accept step of `s`. -/
theorem State.Inv.reaches_accepted {s t : State} {c : Nat} {req : Request} {rest : List (Nat × Request)}
    (hinv : s.Inv) (ht : s.turns = []) (h : s.head c req rest) (hx : acceptStep s = .next t) (as : List Answer) :
    ∃ p n, Reaches (s.withAnswers as) ((t.withAnswers as).withPanel p n) := by
  obtain ⟨-, -, -, -, -, hok⟩ := hinv
  obtain ⟨p, n, hreach, hrx, -⟩ := settles_ok (s := s.withAnswers as) ht hok
  have haccept : internalStep ((s.withAnswers as).withPanel p n) = .next ((t.withAnswers as).withPanel p n) := by
    rw [internalStep_head (s := (s.withAnswers as).withPanel p n) hrx h,
      (acceptFrame_withPanel p n).acceptStep (s := s.withAnswers as) h.1, (acceptFrame_withAnswers as).acceptStep h.1, hx]
    rfl
  exact ⟨p, n, Relation.ReflTransGen.trans hreach (Reaches.internal ht haccept .refl)⟩

/-- Settles O53: the accept step turns the request away, or it starts an operation, and one answer for each of its frames
is enough. Both are the same whatever the transport will answer. -/
theorem headOfQueueIsAnswered : Obligations.HeadOfQueueIsAnswered := by
  intro s c req rest hinv ht h
  have answered {as : List Answer} {t : State} (hr : Reaches (s.withAnswers as) t) (ha : t.answersCaller c rest) :
      ∃ k t, Host.Core.run core k (s.withAnswers as) = .next t ∧
        t.queue = rest ∧ t.inflight = none ∧ ∃ es r, t.trace = es ++ [.respond c r] := by
    obtain ⟨u, htu, hu⟩ := ha
    obtain ⟨k, hk⟩ := Reaches.run (hr.trans htu)
    exact ⟨k, u, hk, hu⟩
  obtain ⟨fs, a, k, page, hx⟩ | ⟨k, info, hx⟩ := acceptStep_head h
  · refine ⟨fs.length, fun as hlen => ?_⟩
    obtain ⟨p, n, hr⟩ := hinv.reaches_accepted ht h hx as
    exact answered hr ((hr.inv hinv).operation_answered ht rfl hlen)
  · refine ⟨0, fun as _ => ?_⟩
    obtain ⟨p, n, hr⟩ := hinv.reaches_accepted ht h hx as
    exact answered hr ⟨_, .refl, rfl, h.1, s.trace, _, rfl⟩

end Sys2Proof.Machine
end

section
/-! The accept step of every request (R103): the state gate, OPEN and CLOSE, and what no request changes (R105, R111, R112, R116). -/

namespace Sys2Proof.Machine

/-! ## The requests' meanings -/

/-- The meaning of each assigned request is the gated accept step of a plan. Only OPEN asks to open the session (R105), and
no plan reads the backend mode (R113). -/
theorem exec_assigned_form {i : Instr} (hi : assigned i = true) :
    ∃ (cls : RequestClass) (plan : Params → Session → Planned) (page : Session → Page → Page),
      (∀ s, exec i s = accept cls (plan s.par s.reg) (page s.reg s.textPage) s) ∧
      (cls = .opening ↔ isOpening i = true) ∧
      ∀ p r n m, plan p { r with mode := m } = plan p r ∧ page { r with mode := m } n = page r n := by
  cases i with
  | openSession a w h m b f =>
    exact ⟨.opening, fun p _ => planOpen p.tuning a w h m b f, fun _ n => n, fun _ => rfl, iff_of_true rfl rfl,
      fun _ _ _ _ => ⟨rfl, rfl⟩⟩
  | closeSession =>
    exact ⟨.closing, fun _ r => planClose r, fun _ n => n, fun _ => rfl, iff_of_false nofun nofun,
      fun _ _ _ _ => ⟨rfl, rfl⟩⟩
  | clear =>
    exact ⟨.display, fun _ r => planClear r, fun _ n => n, fun _ => rfl, iff_of_false nofun nofun,
      fun _ _ _ _ => ⟨rfl, rfl⟩⟩
  | setText text =>
    exact ⟨.display, fun p r => planText p.highCode r text, fun r _ => lastPage r.pages text, fun _ => rfl,
      iff_of_false nofun nofun, fun _ _ _ _ => ⟨rfl, rfl⟩⟩
  | setBitmap bytes w h =>
    exact ⟨.display, fun _ r => planBitmap r bytes w h, fun _ n => n, fun _ => rfl, iff_of_false nofun nofun,
      fun _ _ _ _ => ⟨rfl, rfl⟩⟩
  | setQrcode bytes =>
    exact ⟨.display, fun p r => planQr p.qr r bytes, fun _ n => n, fun _ => rfl, iff_of_false nofun nofun,
      fun _ _ _ _ => ⟨rfl, rfl⟩⟩
  | setContrast v =>
    exact ⟨.display, fun _ r => planContrast r v, fun _ n => n, fun _ => rfl, iff_of_false nofun nofun,
      fun _ _ _ _ => ⟨rfl, rfl⟩⟩
  | setInversion b =>
    exact ⟨.display, fun _ r => planInversion r b, fun _ n => n, fun _ => rfl, iff_of_false nofun nofun,
      fun _ _ _ _ => ⟨rfl, rfl⟩⟩
  | _ => cases hi

/-- A request is an assigned one, or its meaning is the answer to an unassigned one (R65, R74). -/
theorem exec_request_assigned_or_unsupported {i : Instr} (hi : i.port = .request) :
    assigned i = true ∨ ∃ info, ∀ s, exec i s = acceptUnsupported info s := by
  cases i with
  | openSession | closeSession | clear | setText | setBitmap | setQrcode | setContrast | setInversion => exact .inl rfl
  | reserved00 => exact .inr ⟨.opcode 0x00, fun _ => rfl⟩
  | reserved09FF op => exact .inr ⟨.opcode op, fun _ => rfl⟩
  | _ => cases hi

theorem gate_idle {cls : RequestClass} (h : cls ≠ .opening) : gate .idle cls = some .closed := by
  cases cls with
  | opening => exact absurd rfl h
  | closing | display => rfl

/-- Settles O19: the gate answers before the operands are looked at. -/
theorem gateRejectsByState : Obligations.GateRejectsByState := by
  intro s c req rest i h hi
  obtain ⟨cls, plan, page, hx, hcls, -⟩ := exec_assigned_form hi
  rw [hx]
  refine ⟨fun hs => accept_gateError h ?_, fun hs hop => accept_gateError h ?_, fun hs hop => accept_gateError h ?_⟩ <;>
    rw [hs]
  · rfl
  · exact gate_idle fun hc => absurd (hcls.1 hc) (hop ▸ nofun)
  · rw [hcls.2 hop]
    rfl

/-- Answering caller `c` frees its slot and no other (R18). -/
theorem resp_of_answered {s t : State} {c : Nat} (h : t.waiting = dropCaller c s.waiting) :
    t.resp c = .none ∧ ∀ d, d ≠ c → t.resp d = s.resp d := by
  have hresp (d : Nat) : t.resp d = if d = c then .none else s.resp d :=
    (resp_congr (s := respond c .ok s) h d).trans (respond_resp c .ok s d)
  exact ⟨by rw [hresp, if_pos rfl], fun d hd => by rw [hresp, if_neg hd]⟩

/-- Settles O20: an accept step starts an operation or turns the request away, and neither touches more. -/
theorem requestsChangeOnlyTheSequencer : Obligations.RequestsChangeOnlyTheSequencer := by
  intro i s t hi hx
  obtain ⟨c, req, rest, ⟨ho, hq⟩, ⟨fs, a, k, page, rfl, hpage⟩ | ⟨k, info, rfl⟩⟩ := exec_request_next hi hx
  · exact ⟨c, req, hq, rfl, rfl, rfl, rfl, rfl, rfl, fun _ => rfl, hpage, fun _ _ => rfl,
      .inl ⟨_, rfl, rfl, rfl, rfl, rfl, rfl⟩⟩
  · obtain ⟨hresp, hother⟩ := resp_of_answered (s := s) (t := turnedAway s c rest k info) (c := c) rfl
    exact ⟨c, req, hq, rfl, rfl, rfl, rfl, rfl, rfl, fun _ => rfl, fun _ => rfl, hother,
      .inr ⟨ho, rfl, rfl, hresp, k, info, rfl⟩⟩

/-! ## OPEN (R111, R116) -/

section
variable {t : InitTuning} {addr : Option Int} {width height : Int} {mode : Mode} {bus : Bool} {font : Option (List Byte)}

theorem planOpen_badAddr (ha : ¬(0 ≤ addr.getD 0x3C ∧ addr.getD 0x3C ≤ 0x7F)) :
    planOpen t addr width height mode bus font = .error .configuration (.field .addr) :=
  if_pos (show addr.getD 0x3C < 0 ∨ 0x7F < addr.getD 0x3C by omega)

/-- With an address of seven bits the other checks decide. -/
theorem planOpen_goodAddr (ha : 0 ≤ addr.getD 0x3C ∧ addr.getD 0x3C ≤ 0x7F) :
    planOpen t addr width height mode bus font =
      if width < 1 ∨ 128 < width then .error .configuration (.field .width)
      else if ¬(height = 32 ∨ height = 64) then .error .configuration (.field .height)
      else if bus = false then .error .configuration (.field .bus)
      else if (font.any fun f => decide (f.length ≠ 1024)) = true then .error .configuration (.field .font)
      else .plan [initFrame t height.toNat] (BitVec.ofInt 7 (addr.getD 0x3C))
        (.opened (BitVec.ofInt 7 (addr.getD 0x3C)) width.toNat height.toNat mode (font.getD Config.defaultFont)) :=
  if_neg (show ¬(addr.getD 0x3C < 0 ∨ 0x7F < addr.getD 0x3C) by omega)

end

section
variable {s : State} {c : Nat} {req : Request} {rest : List (Nat × Request)} {addr : Option Int} {width height : Int}
  {mode : Mode} {bus : Bool} {font : Option (List Byte)}

theorem exec_openSession_error (h : s.head c req rest) (hs : s.reg.sess = .idle) {k : ErrKind} {info : Info}
    (hp : planOpen s.par.tuning addr width height mode bus font = .error k info) :
    exec (.openSession addr width height mode bus font) s = .next (turnedAway s c rest k info) :=
  accept_planError h (by rw [hs]; rfl) hp

theorem exec_openSession_plan (h : s.head c req rest) (hs : s.reg.sess = .idle) {fs : List Frame} {a : BusAddr} {k : Commit}
    (hp : planOpen s.par.tuning addr width height mode bus font = .plan fs a k) :
    exec (.openSession addr width height mode bus font) s = .next (started s c req rest fs a k) :=
  accept_start h (by rw [hs]; rfl) hp

theorem any_length_ne_iff : (font.any fun f => decide (f.length ≠ 1024)) = true ↔ ∃ f, font = some f ∧ f.length ≠ 1024 := by
  cases font <;> simp

end

/-- Settles O9: a valid configuration passes the five checks. -/
theorem openStartsInit : Obligations.OpenStartsInit := by
  intro s c req rest addr width height mode font h hs ha ha' hw hw' hh hf
  have hfont : ¬(font.any fun f => decide (f.length ≠ 1024)) = true := fun hbad => by
    obtain ⟨f, hsome, hne⟩ := any_length_ne_iff.1 hbad
    exact hne (hf f hsome)
  refine exec_openSession_plan h hs ?_
  rw [planOpen_goodAddr ⟨ha, ha'⟩, if_neg (by omega), if_neg (not_not_intro hh), if_neg nofun, if_neg hfont]

/-- Settles O10: the checks come in the order of R116, and each is reached when those before it pass. -/
theorem openRejectsInvalidConfiguration : Obligations.OpenRejectsInvalidConfiguration := by
  intro s c req rest addr width height mode bus font h hs
  refine ⟨fun ha => ?_, fun ha hw => ?_, fun ha hw hh => ?_, fun ha hw hh hb => ?_, fun ha hw hh hb hf => ?_⟩ <;>
    refine exec_openSession_error h hs ?_
  · exact planOpen_badAddr ha
  · rw [planOpen_goodAddr ha, if_pos (by omega)]
  · rw [planOpen_goodAddr ha, if_neg (by omega), if_pos hh]
  · rw [planOpen_goodAddr ha, if_neg (by omega), if_neg (not_not_intro hh), if_pos hb]
  · rw [planOpen_goodAddr ha, if_neg (by omega), if_neg (not_not_intro hh), if_neg (hb ▸ nofun),
      if_pos (any_length_ne_iff.2 hf)]

/-! ## CLOSE (R112) -/

/-- Settles O11. -/
theorem closeStarts : Obligations.CloseStarts := by
  intro s c req rest h hs
  have hgate : gate s.reg.sess .closing = none := by rw [hs]; rfl
  exact ⟨accept_start h hgate rfl, fun _ => rfl⟩

/-! ## The step that runs a request (R103, R104) -/

theorem step_of_run_turn {s : State} {ts : List Turn} (h : s.turns = .run :: ts) :
    step s = internalStep { s with turns := ts } := by
  unfold step
  rw [h]

theorem decodeRequest_eq_ok_iff (req : Request) (i : Instr) : decodeRequest req = .ok i ↔
    (∃ msg, req = .serial msg ∧ decodeMessage msg = .ok i) ∨ (req = .record i ∧ i.port = .request) := by
  cases req with
  | serial msg =>
    refine ⟨fun h => .inl ⟨msg, rfl, h⟩, ?_⟩
    rintro (⟨_, ⟨⟩, h⟩ | ⟨⟨⟩, -⟩)
    exact h
  | record j =>
    constructor
    · intro h
      simp only [decodeRequest] at h
      split_ifs at h with hj
      cases h
      exact .inr ⟨rfl, hj⟩
    · rintro (⟨_, ⟨⟩, -⟩ | ⟨⟨⟩, hi⟩)
      exact if_pos hi

/-- Settles O26. -/
theorem stepRunsTheRequest : Obligations.StepRunsTheRequest := by
  refine ⟨fun s c req rest i hrx h hd => ⟨internalStep_accept hrx h hd, fun hts => ?_, fun ts hts => ?_⟩,
    decodeRequest_eq_ok_iff⟩
  · rw [step_of_no_turns hts, internalStep_accept hrx h hd]
  · rw [step_of_run_turn hts, internalStep_accept (s := { s with turns := ts }) hrx h hd]

end Sys2Proof.Machine
end

section
/-! The engine's steps with an operation in flight, and its idle step (R107 to R109, R135). -/

namespace Sys2Proof.Machine

section
variable {s : State} {op : Operation} {f : Frame}

theorem internalStep_emit (hrx : s.engineNext) (ho : s.inflight = some op) (hf : op.frames[s.seq]? = some f) :
    internalStep s = .next (emitStep op f s) := by
  rw [internalStep_engine hrx, engineStep_emit ho hf]

theorem internalStep_complete (hrx : s.engineNext) (ho : s.inflight = some op) (hs : s.seq = op.frames.length) :
    internalStep s = .next (completeStep op s) := by
  rw [internalStep_engine hrx, engineStep_end ho (List.getElem?_eq_none hs.ge), if_pos hs]

theorem internalStep_idle (hrx : s.engineNext) (ho : s.inflight = none) (hq : s.queue = []) :
    internalStep s = .next s := by
  rw [internalStep_engine hrx, engineStep_accept ho, acceptStep, hq]

end

/-! ## What reaches the panel (R50) -/

section
variable {s : State} {a : BusAddr} {bytes : List Byte}

theorem toPanel_ctl_unreached (h : a ≠ s.par.panelAddr ∨ bytes = []) : (toPanel a bytes s).ctl = s.ctl := by
  obtain ha | rfl := h
  · rw [toPanel, if_neg ha]
  · rw [toPanel, deliver_nil, ite_self]

theorem toPanel_ctl_reached (ha : a = s.par.panelAddr) (hb : bytes ≠ []) :
    (toPanel a bytes s).ctl = { s.ctl with rx := bytes, rxPos := .control } := by
  rw [toPanel_watched ha hb]
  rfl

end

/-! ## The steps -/

/-- Settles O30. -/
theorem emitOkAdvancesByOne : Obligations.EmitOkAdvancesByOne := by
  intro s op f rest hrx ho hf ha
  refine ⟨emitOk op f { s with answers := rest }, by rw [internalStep_emit hrx ho hf, emitStep_ok ha], emitOk_seq ..,
    emitOk_trace .., emitOk_answers .., emitOk_inflight .., emitOk_reg .., emitOk_queue .., emitOk_waiting ..,
    emitOk_par .., emitOk_textPage .., emitOk_turns .., fun hno => ?_, fun haddr hne => ?_⟩ <;> rw [emitOk_ctl]
  · exact toPanel_ctl_unreached hno
  · exact toPanel_ctl_reached haddr hne

/-- Settles O31: of a frame of which `k` bytes arrived, nothing is left to take in when `k` or the frame is empty. -/
theorem emitFailEndsTheOperation : Obligations.EmitFailEndsTheOperation := by
  intro s op f reason k rest hrx ho hf ha
  obtain ⟨hresp, hother⟩ := resp_of_answered (emitFail_waiting op f reason k { s with answers := rest })
  refine ⟨emitFail op f reason k { s with answers := rest }, by rw [internalStep_emit hrx ho hf, emitStep_fail ha],
    emitFail_trace .., emitFail_inflight .., emitFail_reg .., emitFail_queue .., emitFail_answers .., emitFail_par ..,
    hresp, hother, fun hno => ?_, fun haddr hk hne => ?_⟩ <;> rw [emitFail_ctl]
  · exact toPanel_ctl_unreached (hno.imp_right List.take_eq_nil_iff.2)
  · exact toPanel_ctl_reached haddr fun hnil => (List.take_eq_nil_iff.1 hnil).elim hk.ne' hne

/-- Settles O32: the three commits are those of R109, R111 and R112. -/
theorem completeAppliesTheCommit : Obligations.CompleteAppliesTheCommit := by
  intro s op hrx ho hs
  obtain ⟨hresp, hother⟩ := resp_of_answered (completeStep_waiting op s)
  refine ⟨completeStep op s, internalStep_complete hrx ho hs, rfl, fun a W H m font hc => ?_, fun hc => ?_, fun hc => ?_,
    rfl, rfl, rfl, rfl, rfl, rfl, hresp, hother⟩ <;> rw [completeStep_reg, hc, applyCommit]

/-- Settles O33. -/
theorem heldAndIdleStepsChangeNothing : Obligations.HeldAndIdleStepsChangeNothing := by
  have unchanged {s : State} (h : internalStep s = .next s) :
      internalStep s = .next s ∧ (s.turns = [] → step s = .next s) :=
    ⟨h, fun hts => (step_of_no_turns hts).trans h⟩
  refine ⟨fun s op f hrx ho hf ha => unchanged ?_, fun s hrx ho hq => unchanged (internalStep_idle hrx ho hq)⟩
  rw [internalStep_emit hrx ho hf, emitStep_held ha]

end Sys2Proof.Machine
end

section
/-! The backend mode changes no output (R113). -/

namespace Sys2Proof.Machine

/-! ## The accept step -/

section
variable (m : Mode) {s : State} {c : Nat} {req : Request} {rest : List (Nat × Request)}

theorem accept_withMode (h : s.head c req rest) (cls : RequestClass) (pl : Planned) (page : Page) :
    accept cls pl page (s.withMode m) = mapNext (State.withMode m) (accept cls pl page s) := by
  have h' : (s.withMode m).head c req rest := h
  cases hg : gate s.reg.sess cls with
  | some k =>
    rw [accept_gateError h hg, accept_gateError h' hg]
    rfl
  | none =>
    cases pl with
    | plan fs a k =>
      rw [accept_start h hg rfl, accept_start h' hg rfl]
      rfl
    | error k info =>
      rw [accept_planError h hg rfl, accept_planError h' hg rfl]
      rfl

theorem acceptUnsupported_withMode (h : s.head c req rest) (info : Info) :
    acceptUnsupported info (s.withMode m) = mapNext (State.withMode m) (acceptUnsupported info s) := by
  rw [acceptUnsupported_head h, acceptUnsupported_head (s := s.withMode m) h]
  rfl

theorem exec_request_withMode (h : s.head c req rest) {i : Instr} (hi : i.port = .request) :
    exec i (s.withMode m) = mapNext (State.withMode m) (exec i s) := by
  obtain hassigned | ⟨info, hx⟩ := exec_request_assigned_or_unsupported hi
  · obtain ⟨cls, plan, page, hx, -, hmode⟩ := exec_assigned_form hassigned
    obtain ⟨hplan, hpage⟩ := hmode s.par s.reg s.textPage m
    have hx' : exec i (s.withMode m) = accept cls (plan s.par s.reg) (page s.reg s.textPage) (s.withMode m) := by
      rw [← hplan, ← hpage]
      exact hx _
    rw [hx', hx, accept_withMode m h]
  · rw [hx, hx, acceptUnsupported_withMode m h]

theorem acceptStep_withMode (ho : s.inflight = none) :
    acceptStep (s.withMode m) = mapNext (State.withMode m) (acceptStep s) := by
  have hqueue : (s.withMode m).queue = s.queue := rfl
  unfold acceptStep
  rw [hqueue]
  cases hq : s.queue with
  | nil => rfl
  | cons q rest =>
    have h : s.head q.1 q.2 rest := ⟨ho, hq⟩
    dsimp only
    cases hd : decodeRequest q.2 with
    | ok i => exact exec_request_withMode m h (decodeRequest_port hd)
    | reject r => exact acceptUnsupported_withMode m h _

end

/-! ## The other steps -/

section
variable (m : Mode) (s : State)

theorem toPanel_withMode (a : BusAddr) (bytes : List Byte) :
    toPanel a bytes (s.withMode m) = (toPanel a bytes s).withMode m := by
  simp only [toPanel, deliver, apply_ite (State.withMode m)]
  rfl

theorem emitStep_withMode (op : Operation) (f : Frame) :
    emitStep op f (s.withMode m) = (emitStep op f s).withMode m := by
  match ha : s.answers with
  | [] => rw [emitStep_held ha, emitStep_held (s := s.withMode m) ha]
  | .ok :: as =>
    rw [emitStep_ok ha, emitStep_ok (s := s.withMode m) ha]
    exact congrArg (fun t : State => { t with seq := t.seq + 1 }) (toPanel_withMode m
      { s with answers := as, trace := s.trace ++ [.write op.caller op.addr f .ok] } op.addr f)
  | .fail r k :: as =>
    rw [emitStep_fail ha, emitStep_fail (s := s.withMode m) ha]
    exact congrArg (fun t => answerError op.caller .transport (.reason r) (endOperation t)) (toPanel_withMode m
      { s with answers := as, trace := s.trace ++ [.write op.caller op.addr f (.fail r k)] } op.addr (f.take k))

/-- OPEN's commit brings a mode of its own, and every other one keeps the mode that was there. -/
theorem completeStep_withMode (op : Operation) :
    ∃ m', completeStep op (s.withMode m) = (completeStep op s).withMode m' := by
  cases hc : op.commit with
  | opened a W H m' font =>
    refine ⟨m', ?_⟩
    simp only [completeStep, hc]
    rfl
  | keep | closed =>
    refine ⟨m, ?_⟩
    simp only [completeStep, hc]
    rfl

theorem engineStep_withMode :
    ∃ m', engineStep (s.withMode m) = mapNext (State.withMode m') (engineStep s) := by
  cases ho : s.inflight with
  | none =>
    rw [engineStep_accept ho, engineStep_accept (s := s.withMode m) ho]
    exact ⟨m, acceptStep_withMode m ho⟩
  | some op =>
    cases hf : op.frames[s.seq]? with
    | some f =>
      rw [engineStep_emit ho hf, engineStep_emit (s := s.withMode m) ho hf]
      exact ⟨m, congrArg _ (emitStep_withMode m s op f)⟩
    | none =>
      obtain ⟨m', hm⟩ := completeStep_withMode m s op
      refine ⟨m', ?_⟩
      rw [engineStep_end ho hf, engineStep_end (s := s.withMode m) ho hf, hm, apply_ite (mapNext _)]
      rfl

/-- A controller row reads the controller alone. -/
theorem exec_frame_withMode {i : Instr} (hi : i.port ≠ .request) :
    exec i (s.withMode m) = mapNext (State.withMode m) (exec i s) := by
  cases i with
  | openSession | closeSession | clear | setText | setBitmap | setQrcode | setContrast | setInversion | reserved00
  | reserved09FF => exact absurd rfl hi
  | setMemMode v =>
    unfold exec execSetMemMode
    dsimp only
    cases AddrMode.ofBits (v.extractLsb' 0 2) <;> rfl
  | _ => rfl

theorem controllerStep_withMode : controllerStep (s.withMode m) = mapNext (State.withMode m) (controllerStep s) := by
  have hctl : (s.withMode m).ctl = s.ctl := rfl
  unfold controllerStep
  rw [hctl]
  cases hf : s.ctl.fetch with
  | instr i c => exact exec_frame_withMode m { s with ctl := c } (fetch_instr_port hf)
  | other c => rfl
  | cut b => rfl
  | refuse r => rfl

theorem internalStep_withMode :
    ∃ m', internalStep (s.withMode m) = mapNext (State.withMode m') (internalStep s) := by
  by_cases hrx : s.ctl.rx = []
  · rw [internalStep_engine hrx, internalStep_engine (s := s.withMode m) hrx]
    exact engineStep_withMode m s
  · refine ⟨m, ?_⟩
    unfold internalStep
    rw [if_neg hrx, if_neg (show (s.withMode m).ctl.rx ≠ [] from hrx), controllerStep_withMode]

theorem resetBlock_withMode : resetBlock (s.withMode m) = resetBlock s := rfl

/-- A block reset forgets the mode (R134). -/
theorem blockReset_withMode (cut : Option Nat) : blockReset cut (s.withMode m) = blockReset cut s := by
  have hout : (s.withMode m).outstanding = s.outstanding := rfl
  unfold blockReset
  rw [hout]
  split
  · next k op f _ =>
    exact (congrArg resetBlock (toPanel_withMode m { s with trace := s.trace ++ [.abandoned op.caller op.addr f] }
      op.addr (f.take k))).trans (resetBlock_withMode m _)
  · rfl

theorem step_withMode : ∃ m', step (s.withMode m) = mapNext (State.withMode m') (step s) := by
  have hturns : (s.withMode m).turns = s.turns := rfl
  have hpar : (s.withMode m).par = s.par := rfl
  have hwaiting : (s.withMode m).waiting = s.waiting := rfl
  unfold step
  rw [hturns, hpar, hwaiting]
  match s.turns with
  | [] => exact internalStep_withMode m s
  | .run :: ts => exact internalStep_withMode m { s with turns := ts }
  | .submit c req :: ts =>
    dsimp only
    split_ifs
    · exact internalStep_withMode m s
    · exact ⟨m, rfl⟩
    · exact ⟨m, rfl⟩
  | .blockReset cut :: ts =>
    exact ⟨(blockReset cut { s with turns := ts }).reg.mode,
      congrArg Host.Outcome.next (blockReset_withMode m { s with turns := ts } cut)⟩
  | .panelReset :: ts => exact ⟨m, rfl⟩

end

/-- Settles O45: no step reads the mode, and in OPEN's plan it stands in the commit alone. -/
theorem modeChangesNoOutput : Obligations.ModeChangesNoOutput := by
  refine ⟨fun s m => ?_, fun t addr w h bus font m => ?_⟩
  · obtain ⟨m', hm⟩ := step_withMode m s
    cases he : step s <;> rw [he] at hm
    case next t => exact ⟨m', hm⟩
    case fault => exact hm
    case refused => exact hm
  · unfold planOpen
    dsimp only
    split_ifs <;> exact ⟨rfl, rfl⟩

end Sys2Proof.Machine
end

section
/-! No state of the invariant stops the machine (R123), and the codes of responses and session states (R115, R7). -/

namespace Sys2Proof.Machine

/-! ## Progress: the machine's own step -/

/-- The part of the invariant that is about the frame index (R6). Like the panel's part, it does not read the turns to come. -/
def State.indexInFrames (s : State) : Prop := ∀ op, s.inflight = some op → s.seq ≤ op.frames.length

/-- The accept step has an outcome for every request, and an empty queue leaves the machine as it is (R103, R135). -/
theorem acceptStep_goes {s : State} (ho : s.inflight = none) : ∃ t, acceptStep s = .next t := by
  cases hq : s.queue with
  | nil => exact ⟨s, by rw [acceptStep, hq]⟩
  | cons q rest =>
    obtain ⟨_, _, _, _, h⟩ | ⟨_, _, h⟩ := acceptStep_head (s := s) (c := q.1) (req := q.2) ⟨ho, hq⟩
    · exact ⟨_, h⟩
    · exact ⟨_, h⟩

/-- An operation in flight writes its next frame or, past the last one, completes: its index is never further (R6). -/
theorem engineStep_goes {s : State} (hseq : s.indexInFrames) : ∃ t, engineStep s = .next t := by
  cases ho : s.inflight with
  | none =>
    rw [engineStep_accept ho]
    exact acceptStep_goes ho
  | some op =>
    cases hf : op.frames[s.seq]? with
    | some f => exact ⟨_, engineStep_emit ho hf⟩
    | none =>
      have hend : s.seq = op.frames.length := le_antisymm (hseq op ho) (List.getElem?_eq_none_iff.1 hf)
      exact ⟨_, by rw [engineStep_end ho hf, if_pos hend]⟩

theorem internalStep_goes {s : State} (hseq : s.indexInFrames) (hread : Readable s.ctl.rxPos s.ctl.rx) :
    ∃ t, internalStep s = .next t := by
  cases hrx : s.ctl.rx with
  | nil =>
    rw [internalStep_engine hrx]
    exact engineStep_goes hseq
  | cons b bs =>
    obtain ⟨t, ht, -⟩ := internalStep_takesIn ⟨hrx, rfl⟩ (hrx ▸ hread)
    exact ⟨t, ht⟩

/-! ## Progress: every turn -/

theorem State.Inv.indexInFrames {s : State} (h : s.Inv) : s.indexInFrames := by
  obtain ⟨-, -, hop, -⟩ := h
  exact fun op ho => (hop op ho).1

theorem State.Inv.rx_readable {s : State} (h : s.Inv) : Readable s.ctl.rxPos s.ctl.rx := by
  obtain ⟨-, -, -, -, -, -, hread⟩ := h
  exact hread

theorem State.Inv.caller_exists {s : State} (h : s.Inv) {c : Nat} {req : Request} {ts : List Turn}
    (ht : s.turns = .submit c req :: ts) : c < s.par.nCallers := by
  obtain ⟨-, -, -, -, hturns, -⟩ := h
  exact hturns c req (ht ▸ List.mem_cons_self)

theorem step_blockReset {s : State} {cut : Option Nat} {ts : List Turn} (h : s.turns = .blockReset cut :: ts) :
    step s = .next (blockReset cut { s with turns := ts }) := by
  unfold step
  rw [h]

/-- Settles O41: the resets always have an outcome, a submit turn is of a caller that the block has, and the machine's own
step goes on because the frame index is within the frames and the panel can read what it was sent. -/
theorem machineAlwaysGoesOn : Obligations.MachineAlwaysGoesOn := by
  intro s hinv
  have hseq := hinv.indexInFrames
  have hread := hinv.rx_readable
  cases ht : s.turns with
  | nil =>
    rw [goesOn, step_of_no_turns ht]
    exact internalStep_goes hseq hread
  | cons turn ts =>
    cases turn with
    | run =>
      rw [goesOn, step_of_run_turn ht]
      exact internalStep_goes (s := { s with turns := ts }) hseq hread
    | submit c req =>
      rw [goesOn, step_submit ht (hinv.caller_exists ht)]
      split_ifs
      · exact internalStep_goes hseq hread
      · exact ⟨_, rfl⟩
    | blockReset cut => exact ⟨_, step_blockReset ht⟩
    | panelReset => exact ⟨_, step_panelReset ht⟩

/-! ## Codes -/

theorem ErrKind.code_toNat_le (k : ErrKind) : k.code.toNat ≤ 5 := by cases k <;> decide

/-- No response has the code 6 or 7 (R115). -/
theorem Response.code_toNat_le (r : Response) : r.code.toNat ≤ 5 := by
  cases r with
  | ok => exact Nat.zero_le 5
  | err k info => exact k.code_toNat_le

theorem Sess.ofBits_bits (x : Sess) : Sess.ofBits x.bits = some x := by cases x <;> decide

/-- Settles O60: each code and each bit pair is the one in its definition. -/
theorem responseAndSessionCodes : Obligations.ResponseAndSessionCodes :=
  ⟨rfl, fun _ => rfl, fun _ => rfl, fun _ => rfl, fun _ => rfl, fun _ => rfl, Response.code_toNat_le, rfl, rfl, rfl,
    Sess.ofBits_bits, rfl⟩

end Sys2Proof.Machine
end

section
/-! What a block reset abandons and leaves (R134), and the machine right after reset (R46, R134). -/

namespace Sys2Proof.Machine

/-! ## The call that is out (R107) -/

/-- A call is out exactly when the panel has taken in everything before it, and it is the one of the next frame. -/
theorem outstanding_eq_some_iff {s : State} {op : Operation} {f : Frame} :
    s.outstanding = some (op, f) ↔ s.inflight = some op ∧ s.ctl.rx = [] ∧ op.frames[s.seq]? = some f := by
  constructor
  · intro h
    obtain ⟨ho, hf⟩ := outstanding_eq_some h
    refine ⟨ho, ?_, hf⟩
    by_contra hrx
    simp [State.outstanding, ho, hrx] at h
  · rintro ⟨ho, hrx, hf⟩
    simp [State.outstanding, ho, hrx, hf]

/-! ## The block reset (R134) -/

@[simp] theorem blockReset_seq (cut : Option Nat) (s : State) : (blockReset cut s).seq = 0 := by
  obtain h | ⟨k, op, f, -, -, -, -, h⟩ := blockReset_cases cut s <;> simp [h]

@[simp] theorem blockReset_answers (cut : Option Nat) (s : State) : (blockReset cut s).answers = s.answers := by
  obtain h | ⟨k, op, f, -, -, -, -, h⟩ := blockReset_cases cut s <;> simp [h]

theorem blockReset_resp (cut : Option Nat) (s : State) (c : Nat) : (blockReset cut s).resp c = .none :=
  (resp_none _ c).2 (by simp)

/-- With no call out, only the block's own elements and the output sequence move. -/
theorem blockReset_noCall {cut : Option Nat} {s : State} (h : cut = none ∨ s.outstanding = none) :
    blockReset cut s = resetBlock s := by
  unfold blockReset
  obtain rfl | hout := h
  · rfl
  · rw [hout]
    cases cut <;> rfl

/-- With a call out, its frame is abandoned and the panel gets the `k` bytes of it that arrived (93 I23). -/
theorem blockReset_call {s : State} {op : Operation} {f : Frame} (h : s.outstanding = some (op, f)) (k : Nat) :
    blockReset (some k) s = resetBlock (toPanel op.addr (f.take k)
      { s with trace := s.trace ++ [.abandoned op.caller op.addr f] }) := by
  unfold blockReset
  rw [h]

/-- Settles O34: the block's elements take their reset values with or without a call out; what the panel and the output
sequence get depends on the call, and taking the turn changes no call. -/
theorem blockResetAbandonsEverything : Obligations.BlockResetAbandonsEverything := by
  intro s cut ts hts
  refine ⟨blockReset cut { s with turns := ts }, step_blockReset hts, congrArg Session.sess (blockReset_reg ..),
    congrArg Session.bus (blockReset_reg ..), blockReset_queue .., blockReset_resp cut _,
    blockReset_inflight .., blockReset_seq .., blockReset_par .., blockReset_answers .., blockReset_turns ..,
    fun hno => ?_, fun k op f hcut hout => ?_, fun op f => outstanding_eq_some_iff⟩
  · rw [blockReset_noCall (s := { s with turns := ts }) hno]
    exact ⟨rfl, rfl⟩
  · rw [hcut, blockReset_call (s := { s with turns := ts }) hout k, resetBlock_ctl]
    refine ⟨by simp, fun hno => ?_, fun haddr hk hne => ?_⟩
    · exact toPanel_ctl_unreached (hno.imp_right List.take_eq_nil_iff.2)
    · exact toPanel_ctl_reached haddr fun hnil => (List.take_eq_nil_iff.1 hnil).elim hk.ne' hne

/-! ## Right after reset (R46, R134) -/

/-- Settles O38: each value is the one in its definition, and the display memory has no known byte. -/
theorem resetValues : Obligations.ResetValues :=
  ⟨rfl, rfl, rfl, fun c => (resp_none _ c).2 List.not_mem_nil, rfl, rfl, rfl, rfl, rfl, rfl, rfl, rfl, rfl, rfl, rfl, rfl,
    rfl, Memory.read_nil⟩

theorem paramsOk_standard : paramsOk .standard := ⟨by decide, by decide⟩

theorem callersOk_reset : State.reset.callersOk := ⟨.nil, nofun, .nil⟩

theorem inv_reset : State.reset.Inv :=
  ⟨paramsOk_standard, Session.ok_reset, State.inflightOk_of_none rfl, callersOk_reset, nofun, Controller.ok_afterReset⟩

theorem traceOk_reset : State.reset.traceOk := (traceOk_iff _).2 ⟨.nil, nofun⟩

/-- Settles O39. -/
theorem resetSatisfiesTheInvariant : Obligations.ResetSatisfiesTheInvariant := ⟨inv_reset, traceOk_reset⟩

end Sys2Proof.Machine
end
